-- ==== Sys2Proof/Word.lean ====
section
/-!
DEFINITION. Words, registers and operands of the 8088: the widths of rule R9 (REG_W, ADDR_W, DBUS_W), the register names of R21, R22 and R24, and the
shapes a ModR/M operand can take (R144, R148, R151). Nothing here has an effect; encodings are in Decode, values in Machine.
-/

namespace Sys2Proof

/-- One byte: the 8088's external data bus moves one byte per bus cycle (R70). -/
abbrev Byte := BitVec 8

/-- A 16-bit register, offset, port or word operand (R9 REG_W, IO_W). -/
abbrev Word := BitVec 16

/-- A 20-bit physical address (R9 ADDR_W, R72). -/
abbrev PAddr := BitVec 20

/-- The word registers `x16[0..7]` (R21). -/
inductive Reg16 where
  | ax | cx | dx | bx | sp | bp | si | di
  deriving DecidableEq, Repr

/-- The byte registers `x8[0..7]`, halves of AX, CX, DX and BX (R21, R22). -/
inductive Reg8 where
  | al | cl | dl | bl | ah | ch | dh | bh
  deriving DecidableEq, Repr

/-- The segment registers `sreg[0..3]` (R24). -/
inductive SReg where
  | es | cs | ss | ds
  deriving DecidableEq, Repr

/-- Operand width N: 8 or 16 bits, chosen by the w bit (R143). -/
inductive Width where
  | byte | word
  deriving DecidableEq, Repr

/-- Base and index registers of an effective address, in the order of the rm field (R151). -/
inductive EaBase where
  | bxsi | bxdi | bpsi | bpdi | si | di | bp | bx
  deriving DecidableEq, Repr

/-- A memory operand of a ModR/M byte (R148, R151): no displacement (mod 00), a sign-extended byte (mod 01), a word (mod 10), or a direct offset
(mod 00 with rm 110). The displacement is kept as it stands in the stream. -/
inductive Ea where
  | nodisp (b : EaBase)
  | disp8 (b : EaBase) (d : Byte)
  | disp16 (b : EaBase) (d : Word)
  | direct (d : Word)
  deriving DecidableEq, Repr

/-- The E operand: a register (mod 11) or a memory operand (R146, R150). -/
inductive Rm (R : Type) where
  | reg (r : R)
  | mem (ea : Ea)
  deriving DecidableEq, Repr

/-- A byte-wide E operand. -/
abbrev Rm8 := Rm Reg8

/-- A word-wide E operand. -/
abbrev Rm16 := Rm Reg16

/-- The two kinds of repeat prefix, F3 and F2 (R141). -/
inductive Rep where
  | repe | repne
  deriving DecidableEq, Repr

/-- Which of two encodings of one form the stream holds: the first, or the second (82 for 80, a reg field one higher, bit 4 or bit 1 of the opcode clear;
the constructor's docstring says which). -/
inductive Enc where
  | main | second
  deriving DecidableEq, Repr

/-- The count of a shift or rotate: 1 (D0, D1) or CL (D2, D3) (R306). -/
inductive Count where
  | one | cl
  deriving DecidableEq, Repr

end Sys2Proof
end

