-- ==== Sys2Proof/Syntax.lean ====
section
/-!
DEFINITION. The instructions of the 8088: the rows of opcode_table.json (R161), in the table's order, 375 rows in 233
constructors. Rows that differ only in a register, segment register, coprocessor number, shift count or ignored reg field have that field as an operand,
and rows that are a second encoding of one form have it as `Enc`: the docstrings name the rows. (A constructor for each row is more than Lean's runtime
has tags for.) A prefix byte is a row of the table and so a constructor (R141).
-/

namespace Sys2Proof

/-- An instruction, or one prefix byte, with its operands as they stand in the stream. -/
inductive Instr where
  /-- 00 ADD Eb,Gb: R253. -/
  | addEbGb (e : Rm8) (g : Reg8)
  /-- 01 ADD Ev,Gv: R253. -/
  | addEvGv (e : Rm16) (g : Reg16)
  /-- 02 ADD Gb,Eb: R253. -/
  | addGbEb (g : Reg8) (e : Rm8)
  /-- 03 ADD Gv,Ev: R253. -/
  | addGvEv (g : Reg16) (e : Rm16)
  /-- 04 ADD AL,Ib: R253. -/
  | addALIb (imm : Byte)
  /-- 05 ADD AX,Iv: R253. -/
  | addAXIv (imm : Word)
  /-- 06 0E 16 1E PUSH sreg: R207. -/
  | pushSreg (s : SReg)
  /-- 07 17 1F POP sreg: R210; 0F POP CS: R414. -/
  | popSreg (s : SReg)
  /-- 08 OR Eb,Gb: R302. -/
  | orEbGb (e : Rm8) (g : Reg8)
  /-- 09 OR Ev,Gv: R302. -/
  | orEvGv (e : Rm16) (g : Reg16)
  /-- 0A OR Gb,Eb: R302. -/
  | orGbEb (g : Reg8) (e : Rm8)
  /-- 0B OR Gv,Ev: R302. -/
  | orGvEv (g : Reg16) (e : Rm16)
  /-- 0C OR AL,Ib: R302. -/
  | orALIb (imm : Byte)
  /-- 0D OR AX,Iv: R302. -/
  | orAXIv (imm : Word)
  /-- 10 ADC Eb,Gb: R254. -/
  | adcEbGb (e : Rm8) (g : Reg8)
  /-- 11 ADC Ev,Gv: R254. -/
  | adcEvGv (e : Rm16) (g : Reg16)
  /-- 12 ADC Gb,Eb: R254. -/
  | adcGbEb (g : Reg8) (e : Rm8)
  /-- 13 ADC Gv,Ev: R254. -/
  | adcGvEv (g : Reg16) (e : Rm16)
  /-- 14 ADC AL,Ib: R254. -/
  | adcALIb (imm : Byte)
  /-- 15 ADC AX,Iv: R254. -/
  | adcAXIv (imm : Word)
  /-- 18 SBB Eb,Gb: R256. -/
  | sbbEbGb (e : Rm8) (g : Reg8)
  /-- 19 SBB Ev,Gv: R256. -/
  | sbbEvGv (e : Rm16) (g : Reg16)
  /-- 1A SBB Gb,Eb: R256. -/
  | sbbGbEb (g : Reg8) (e : Rm8)
  /-- 1B SBB Gv,Ev: R256. -/
  | sbbGvEv (g : Reg16) (e : Rm16)
  /-- 1C SBB AL,Ib: R256. -/
  | sbbALIb (imm : Byte)
  /-- 1D SBB AX,Iv: R256. -/
  | sbbAXIv (imm : Word)
  /-- 20 AND Eb,Gb: R301. -/
  | andEbGb (e : Rm8) (g : Reg8)
  /-- 21 AND Ev,Gv: R301. -/
  | andEvGv (e : Rm16) (g : Reg16)
  /-- 22 AND Gb,Eb: R301. -/
  | andGbEb (g : Reg8) (e : Rm8)
  /-- 23 AND Gv,Ev: R301. -/
  | andGvEv (g : Reg16) (e : Rm16)
  /-- 24 AND AL,Ib: R301. -/
  | andALIb (imm : Byte)
  /-- 25 AND AX,Iv: R301. -/
  | andAXIv (imm : Word)
  /-- 26 ES:: R401. -/
  | segES
  /-- 27 DAA: R269. -/
  | daa
  /-- 28 SUB Eb,Gb: R255. -/
  | subEbGb (e : Rm8) (g : Reg8)
  /-- 29 SUB Ev,Gv: R255. -/
  | subEvGv (e : Rm16) (g : Reg16)
  /-- 2A SUB Gb,Eb: R255. -/
  | subGbEb (g : Reg8) (e : Rm8)
  /-- 2B SUB Gv,Ev: R255. -/
  | subGvEv (g : Reg16) (e : Rm16)
  /-- 2C SUB AL,Ib: R255. -/
  | subALIb (imm : Byte)
  /-- 2D SUB AX,Iv: R255. -/
  | subAXIv (imm : Word)
  /-- 2E CS:: R401. -/
  | segCS
  /-- 2F DAS: R270. -/
  | das
  /-- 30 XOR Eb,Gb: R303. -/
  | xorEbGb (e : Rm8) (g : Reg8)
  /-- 31 XOR Ev,Gv: R303. -/
  | xorEvGv (e : Rm16) (g : Reg16)
  /-- 32 XOR Gb,Eb: R303. -/
  | xorGbEb (g : Reg8) (e : Rm8)
  /-- 33 XOR Gv,Ev: R303. -/
  | xorGvEv (g : Reg16) (e : Rm16)
  /-- 34 XOR AL,Ib: R303. -/
  | xorALIb (imm : Byte)
  /-- 35 XOR AX,Iv: R303. -/
  | xorAXIv (imm : Word)
  /-- 36 SS:: R401. -/
  | segSS
  /-- 37 AAA: R267. -/
  | aaa
  /-- 38 CMP Eb,Gb: R257. -/
  | cmpEbGb (e : Rm8) (g : Reg8)
  /-- 39 CMP Ev,Gv: R257. -/
  | cmpEvGv (e : Rm16) (g : Reg16)
  /-- 3A CMP Gb,Eb: R257. -/
  | cmpGbEb (g : Reg8) (e : Rm8)
  /-- 3B CMP Gv,Ev: R257. -/
  | cmpGvEv (g : Reg16) (e : Rm16)
  /-- 3C CMP AL,Ib: R257. -/
  | cmpALIb (imm : Byte)
  /-- 3D CMP AX,Iv: R257. -/
  | cmpAXIv (imm : Word)
  /-- 3E DS:: R401. -/
  | segDS
  /-- 3F AAS: R268. -/
  | aas
  /-- 40+r INC r16: R258. -/
  | incReg (r : Reg16)
  /-- 48+r DEC r16: R260. -/
  | decReg (r : Reg16)
  /-- 50+r PUSH r16: R206. -/
  | pushReg (r : Reg16)
  /-- 58+r POP r16: R209. -/
  | popReg (r : Reg16)
  /-- 70 JO Jb: R364; second: 60: R411. -/
  | joJb (v : Enc) (disp : Byte)
  /-- 71 JNO Jb: R364; second: 61: R411. -/
  | jnoJb (v : Enc) (disp : Byte)
  /-- 72 JB Jb: R364; second: 62: R411. -/
  | jbJb (v : Enc) (disp : Byte)
  /-- 73 JNB Jb: R364; second: 63: R411. -/
  | jnbJb (v : Enc) (disp : Byte)
  /-- 74 JZ Jb: R364; second: 64: R411. -/
  | jzJb (v : Enc) (disp : Byte)
  /-- 75 JNZ Jb: R364; second: 65: R411. -/
  | jnzJb (v : Enc) (disp : Byte)
  /-- 76 JBE Jb: R364; second: 66: R411. -/
  | jbeJb (v : Enc) (disp : Byte)
  /-- 77 JNBE Jb: R364; second: 67: R411. -/
  | jnbeJb (v : Enc) (disp : Byte)
  /-- 78 JS Jb: R364; second: 68: R411. -/
  | jsJb (v : Enc) (disp : Byte)
  /-- 79 JNS Jb: R364; second: 69: R411. -/
  | jnsJb (v : Enc) (disp : Byte)
  /-- 7A JP Jb: R364; second: 6A: R411. -/
  | jpJb (v : Enc) (disp : Byte)
  /-- 7B JNP Jb: R364; second: 6B: R411. -/
  | jnpJb (v : Enc) (disp : Byte)
  /-- 7C JL Jb: R364; second: 6C: R411. -/
  | jlJb (v : Enc) (disp : Byte)
  /-- 7D JNL Jb: R364; second: 6D: R411. -/
  | jnlJb (v : Enc) (disp : Byte)
  /-- 7E JLE Jb: R364; second: 6E: R411. -/
  | jleJb (v : Enc) (disp : Byte)
  /-- 7F JNLE Jb: R364; second: 6F: R411. -/
  | jnleJb (v : Enc) (disp : Byte)
  /-- 80 /0 ADD Eb,Ib: R253; second: 82 /0: R248. -/
  | addEbIb (v : Enc) (e : Rm8) (imm : Byte)
  /-- 80 /1 OR Eb,Ib: R302; second: 82 /1: R248. -/
  | orEbIb (v : Enc) (e : Rm8) (imm : Byte)
  /-- 80 /2 ADC Eb,Ib: R254; second: 82 /2: R248. -/
  | adcEbIb (v : Enc) (e : Rm8) (imm : Byte)
  /-- 80 /3 SBB Eb,Ib: R256; second: 82 /3: R248. -/
  | sbbEbIb (v : Enc) (e : Rm8) (imm : Byte)
  /-- 80 /4 AND Eb,Ib: R301; second: 82 /4: R248. -/
  | andEbIb (v : Enc) (e : Rm8) (imm : Byte)
  /-- 80 /5 SUB Eb,Ib: R255; second: 82 /5: R248. -/
  | subEbIb (v : Enc) (e : Rm8) (imm : Byte)
  /-- 80 /6 XOR Eb,Ib: R303; second: 82 /6: R248. -/
  | xorEbIb (v : Enc) (e : Rm8) (imm : Byte)
  /-- 80 /7 CMP Eb,Ib: R257; second: 82 /7: R248. -/
  | cmpEbIb (v : Enc) (e : Rm8) (imm : Byte)
  /-- 81 /0 ADD Ev,Iv: R253. -/
  | addEvIv (e : Rm16) (imm : Word)
  /-- 81 /1 OR Ev,Iv: R302. -/
  | orEvIv (e : Rm16) (imm : Word)
  /-- 81 /2 ADC Ev,Iv: R254. -/
  | adcEvIv (e : Rm16) (imm : Word)
  /-- 81 /3 SBB Ev,Iv: R256. -/
  | sbbEvIv (e : Rm16) (imm : Word)
  /-- 81 /4 AND Ev,Iv: R301. -/
  | andEvIv (e : Rm16) (imm : Word)
  /-- 81 /5 SUB Ev,Iv: R255. -/
  | subEvIv (e : Rm16) (imm : Word)
  /-- 81 /6 XOR Ev,Iv: R303. -/
  | xorEvIv (e : Rm16) (imm : Word)
  /-- 81 /7 CMP Ev,Iv: R257. -/
  | cmpEvIv (e : Rm16) (imm : Word)
  /-- 83 /0 ADD Ev,Ib: R253. -/
  | addEvIb (e : Rm16) (imm : Byte)
  /-- 83 /1 OR Ev,Ib: R302. -/
  | orEvIb (e : Rm16) (imm : Byte)
  /-- 83 /2 ADC Ev,Ib: R254. -/
  | adcEvIb (e : Rm16) (imm : Byte)
  /-- 83 /3 SBB Ev,Ib: R256. -/
  | sbbEvIb (e : Rm16) (imm : Byte)
  /-- 83 /4 AND Ev,Ib: R301. -/
  | andEvIb (e : Rm16) (imm : Byte)
  /-- 83 /5 SUB Ev,Ib: R255. -/
  | subEvIb (e : Rm16) (imm : Byte)
  /-- 83 /6 XOR Ev,Ib: R303. -/
  | xorEvIb (e : Rm16) (imm : Byte)
  /-- 83 /7 CMP Ev,Ib: R257. -/
  | cmpEvIb (e : Rm16) (imm : Byte)
  /-- 84 TEST Eb,Gb: R304. -/
  | testEbGb (e : Rm8) (g : Reg8)
  /-- 85 TEST Ev,Gv: R304. -/
  | testEvGv (e : Rm16) (g : Reg16)
  /-- 86 XCHG Eb,Gb: R212. -/
  | xchgEbGb (e : Rm8) (g : Reg8)
  /-- 87 XCHG Ev,Gv: R212. -/
  | xchgEvGv (e : Rm16) (g : Reg16)
  /-- 88 MOV Eb,Gb: R200. -/
  | movEbGb (e : Rm8) (g : Reg8)
  /-- 89 MOV Ev,Gv: R200. -/
  | movEvGv (e : Rm16) (g : Reg16)
  /-- 8A MOV Gb,Eb: R200. -/
  | movGbEb (g : Reg8) (e : Rm8)
  /-- 8B MOV Gv,Ev: R200. -/
  | movGvEv (g : Reg16) (e : Rm16)
  /-- 8C /0 to /3 MOV Ew,sreg: R204; second: 8C /4 to /7: R416. -/
  | movEwSw (v : Enc) (s : SReg) (e : Rm16)
  /-- 8D LEA Gv,M: R219. -/
  | leaGvM (g : Reg16) (e : Rm16)
  /-- 8E /0 /2 /3 MOV sreg,Ew: R205; CS and second (8E /4 to /7): R416. -/
  | movSwEw (v : Enc) (s : SReg) (e : Rm16)
  /-- 8F /0 POP Ev: R211; /1 to /7: R417. -/
  | popEv (reg : BitVec 3) (e : Rm16)
  /-- 90 NOP: R402. -/
  | nop
  /-- 91 to 97 XCHG AX,r16, r not AX: R213. -/
  | xchgAX (r : Reg16)
  /-- 98 CBW: R273. -/
  | cbw
  /-- 99 CWD: R274. -/
  | cwd
  /-- 9A CALL Ap: R357. -/
  | callAp (off : Word) (sel : Word)
  /-- 9B WAIT: R398. -/
  | wait
  /-- 9C PUSHF: R224. -/
  | pushf
  /-- 9D POPF: R225. -/
  | popf
  /-- 9E SAHF: R223. -/
  | sahf
  /-- 9F LAHF: R222. -/
  | lahf
  /-- A0 MOV AL,Ob: R203. -/
  | movALOb (off : Word)
  /-- A1 MOV AX,Ov: R203. -/
  | movAXOv (off : Word)
  /-- A2 MOV Ob,AL: R203. -/
  | movObAL (off : Word)
  /-- A3 MOV Ov,AX: R203. -/
  | movOvAX (off : Word)
  /-- A4 MOVSB: R332. -/
  | movsb
  /-- A5 MOVSW: R332. -/
  | movsw
  /-- A6 CMPSB: R333. -/
  | cmpsb
  /-- A7 CMPSW: R333. -/
  | cmpsw
  /-- A8 TEST AL,Ib: R304. -/
  | testALIb (imm : Byte)
  /-- A9 TEST AX,Iv: R304. -/
  | testAXIv (imm : Word)
  /-- AA STOSB: R336. -/
  | stosb
  /-- AB STOSW: R336. -/
  | stosw
  /-- AC LODSB: R335. -/
  | lodsb
  /-- AD LODSW: R335. -/
  | lodsw
  /-- AE SCASB: R334. -/
  | scasb
  /-- AF SCASW: R334. -/
  | scasw
  /-- B0+r MOV r8,Ib: R202. -/
  | movRegIb (r : Reg8) (imm : Byte)
  /-- B8+r MOV r16,Iv: R202. -/
  | movRegIv (r : Reg16) (imm : Word)
  /-- C2 RET Iw: R361; second: C0: R412. -/
  | retIw (v : Enc) (n : Word)
  /-- C3 RET: R360; second: C1: R412. -/
  | ret (v : Enc)
  /-- C4 LES Gv,Mp: R221. -/
  | lesGvMp (g : Reg16) (e : Rm16)
  /-- C5 LDS Gv,Mp: R220. -/
  | ldsGvMp (g : Reg16) (e : Rm16)
  /-- C6 /0 MOV Eb,Ib: R201; /1 to /7: R418. -/
  | movEbIb (reg : BitVec 3) (e : Rm8) (imm : Byte)
  /-- C7 /0 MOV Ev,Iv: R201; /1 to /7: R418. -/
  | movEvIv (reg : BitVec 3) (e : Rm16) (imm : Word)
  /-- CA RETF Iw: R363; second: C8: R412. -/
  | retfIw (v : Enc) (n : Word)
  /-- CB RETF: R362; second: C9: R412. -/
  | retf (v : Enc)
  /-- CC INT3: R371. -/
  | int3
  /-- CD INT Ib: R370. -/
  | intIb (n : Byte)
  /-- CE INTO: R372. -/
  | into
  /-- CF IRET: R373. -/
  | iret
  /-- D0 /0 and D2 /0 ROL Eb,1 or CL: R307. -/
  | rolEb (c : Count) (e : Rm8)
  /-- D0 /1 and D2 /1 ROR Eb,1 or CL: R308. -/
  | rorEb (c : Count) (e : Rm8)
  /-- D0 /2 and D2 /2 RCL Eb,1 or CL: R309. -/
  | rclEb (c : Count) (e : Rm8)
  /-- D0 /3 and D2 /3 RCR Eb,1 or CL: R310. -/
  | rcrEb (c : Count) (e : Rm8)
  /-- D0 /4 and D2 /4 SHL Eb,1 or CL: R311. -/
  | shlEb (c : Count) (e : Rm8)
  /-- D0 /5 and D2 /5 SHR Eb,1 or CL: R312. -/
  | shrEb (c : Count) (e : Rm8)
  /-- D0 /6 SETMO Eb,1: R420. -/
  | setmoEb (e : Rm8)
  /-- D0 /7 and D2 /7 SAR Eb,1 or CL: R313. -/
  | sarEb (c : Count) (e : Rm8)
  /-- D1 /0 and D3 /0 ROL Ev,1 or CL: R307. -/
  | rolEv (c : Count) (e : Rm16)
  /-- D1 /1 and D3 /1 ROR Ev,1 or CL: R308. -/
  | rorEv (c : Count) (e : Rm16)
  /-- D1 /2 and D3 /2 RCL Ev,1 or CL: R309. -/
  | rclEv (c : Count) (e : Rm16)
  /-- D1 /3 and D3 /3 RCR Ev,1 or CL: R310. -/
  | rcrEv (c : Count) (e : Rm16)
  /-- D1 /4 and D3 /4 SHL Ev,1 or CL: R311. -/
  | shlEv (c : Count) (e : Rm16)
  /-- D1 /5 and D3 /5 SHR Ev,1 or CL: R312. -/
  | shrEv (c : Count) (e : Rm16)
  /-- D1 /6 SETMO Ev,1: R420. -/
  | setmoEv (e : Rm16)
  /-- D1 /7 and D3 /7 SAR Ev,1 or CL: R313. -/
  | sarEv (c : Count) (e : Rm16)
  /-- D2 /6 SETMOC Eb,CL: R420. -/
  | setmocEb (e : Rm8)
  /-- D3 /6 SETMOC Ev,CL: R420. -/
  | setmocEv (e : Rm16)
  /-- D4 AAM Ib: R271. -/
  | aam (n : Byte)
  /-- D5 AAD Ib: R272. -/
  | aad (n : Byte)
  /-- D6 SALC: R413. -/
  | salc
  /-- D7 XLAT: R214. -/
  | xlat
  /-- D8 to DF ESC n,E, n the opcode's low three bits and the reg field: R399. -/
  | esc (n : BitVec 6) (e : Rm16)
  /-- E0 LOOPNE Jb: R368. -/
  | loopneJb (disp : Byte)
  /-- E1 LOOPE Jb: R367. -/
  | loopeJb (disp : Byte)
  /-- E2 LOOP Jb: R366. -/
  | loopJb (disp : Byte)
  /-- E3 JCXZ Jb: R369. -/
  | jcxzJb (disp : Byte)
  /-- E4 IN AL,Ib: R215. -/
  | inALIb (port : Byte)
  /-- E5 IN AX,Ib: R215. -/
  | inAXIb (port : Byte)
  /-- E6 OUT Ib,AL: R217. -/
  | outIbAL (port : Byte)
  /-- E7 OUT Ib,AX: R217. -/
  | outIbAX (port : Byte)
  /-- E8 CALL Jv: R356. -/
  | callJv (disp : Word)
  /-- E9 JMP Jv: R352. -/
  | jmpJv (disp : Word)
  /-- EA JMP Ap: R353. -/
  | jmpAp (off : Word) (sel : Word)
  /-- EB JMP Jb: R351. -/
  | jmpJb (disp : Byte)
  /-- EC IN AL,DX: R216. -/
  | inALDX
  /-- ED IN AX,DX: R216. -/
  | inAXDX
  /-- EE OUT DX,AL: R218. -/
  | outDXAL
  /-- EF OUT DX,AX: R218. -/
  | outDXAX
  /-- F0 LOCK: R400; second: F1: R415. -/
  | lock (v : Enc)
  /-- F2 REPNE: R403. -/
  | repne
  /-- F3 REP: R403. -/
  | rep
  /-- F4 HLT: R397. -/
  | hlt
  /-- F5 CMC: R392. -/
  | cmc
  /-- F6 /0 TEST Eb,Ib: R304; second: F6 /1: R419. -/
  | testEbIb (v : Enc) (e : Rm8) (imm : Byte)
  /-- F6 /2 NOT Eb: R305. -/
  | notEb (e : Rm8)
  /-- F6 /3 NEG Eb: R262. -/
  | negEb (e : Rm8)
  /-- F6 /4 MUL Eb: R263. -/
  | mulEb (e : Rm8)
  /-- F6 /5 IMUL Eb: R264. -/
  | imulEb (e : Rm8)
  /-- F6 /6 DIV Eb: R265. -/
  | divEb (e : Rm8)
  /-- F6 /7 IDIV Eb: R266. -/
  | idivEb (e : Rm8)
  /-- F7 /0 TEST Ev,Iv: R304; second: F7 /1: R419. -/
  | testEvIv (v : Enc) (e : Rm16) (imm : Word)
  /-- F7 /2 NOT Ev: R305. -/
  | notEv (e : Rm16)
  /-- F7 /3 NEG Ev: R262. -/
  | negEv (e : Rm16)
  /-- F7 /4 MUL Ev: R263. -/
  | mulEv (e : Rm16)
  /-- F7 /5 IMUL Ev: R264. -/
  | imulEv (e : Rm16)
  /-- F7 /6 DIV Ev: R265. -/
  | divEv (e : Rm16)
  /-- F7 /7 IDIV Ev: R266. -/
  | idivEv (e : Rm16)
  /-- F8 CLC: R390. -/
  | clc
  /-- F9 STC: R391. -/
  | stc
  /-- FA CLI: R395. -/
  | cli
  /-- FB STI: R396. -/
  | sti
  /-- FC CLD: R393. -/
  | cld
  /-- FD STD: R394. -/
  | std
  /-- FE /0 INC Eb: R259. -/
  | incEb (e : Rm8)
  /-- FE /1 DEC Eb: R261. -/
  | decEb (e : Rm8)
  /-- FE /2 FE__2 Eb: R421. -/
  | fe2 (e : Rm8)
  /-- FE /3 FE__3 Eb: R421. -/
  | fe3 (e : Rm8)
  /-- FE /4 FE__4 Eb: R421. -/
  | fe4 (e : Rm8)
  /-- FE /5 FE__5 Eb: R421. -/
  | fe5 (e : Rm8)
  /-- FE /6 FE__6 Eb: R421. -/
  | fe6 (e : Rm8)
  /-- FE /7 FE__7 Eb: R421. -/
  | fe7 (e : Rm8)
  /-- FF /0 INC Ev: R259. -/
  | incEv (e : Rm16)
  /-- FF /1 DEC Ev: R261. -/
  | decEv (e : Rm16)
  /-- FF /2 CALL Ev: R358. -/
  | callEv (e : Rm16)
  /-- FF /3 CALL Mp: R359. -/
  | callMp (e : Rm16)
  /-- FF /4 JMP Ev: R354. -/
  | jmpEv (e : Rm16)
  /-- FF /5 JMP Mp: R355. -/
  | jmpMp (e : Rm16)
  /-- FF /6 PUSH Ev: R208; second: FF /7: R422. -/
  | pushEv (v : Enc) (e : Rm16)
  deriving DecidableEq, Repr

end Sys2Proof
end

