-- ==== Sys2Proof/WellFormed.lean ====
section
/-!
DEFINITION. Which instruction terms have an encoding. Two checks. mod = 00 with rm = 110 is the direct form (R148, R151), so a memory operand
based on BP alone always carries a displacement; and 90 is NOP, so XCHG AX,r16 names a register other than AX (R213). Every other field of every
constructor can be encoded at every value.
-/

namespace Sys2Proof

/-- `[BP]` without a displacement has no encoding: that place of the table is the direct offset (R148). -/
def Ea.wf : Ea → Bool
  | .nodisp .bp => false
  | _ => true

/-- The memory operand of an E operand, if it is one. -/
def Rm.ea? {R : Type} : Rm R → Option Ea
  | .reg _ => none
  | .mem ea => some ea

/-- The memory operand an instruction's ModR/M byte names, if any. -/
def Instr.ea? (i : Instr) : Option Ea :=
  match i with
  | .addEbGb e _ => e.ea?
  | .addEvGv e _ => e.ea?
  | .addGbEb _ e => e.ea?
  | .addGvEv _ e => e.ea?
  | .addALIb _ => none
  | .addAXIv _ => none
  | .pushSreg _ => none
  | .popSreg _ => none
  | .orEbGb e _ => e.ea?
  | .orEvGv e _ => e.ea?
  | .orGbEb _ e => e.ea?
  | .orGvEv _ e => e.ea?
  | .orALIb _ => none
  | .orAXIv _ => none
  | .adcEbGb e _ => e.ea?
  | .adcEvGv e _ => e.ea?
  | .adcGbEb _ e => e.ea?
  | .adcGvEv _ e => e.ea?
  | .adcALIb _ => none
  | .adcAXIv _ => none
  | .sbbEbGb e _ => e.ea?
  | .sbbEvGv e _ => e.ea?
  | .sbbGbEb _ e => e.ea?
  | .sbbGvEv _ e => e.ea?
  | .sbbALIb _ => none
  | .sbbAXIv _ => none
  | .andEbGb e _ => e.ea?
  | .andEvGv e _ => e.ea?
  | .andGbEb _ e => e.ea?
  | .andGvEv _ e => e.ea?
  | .andALIb _ => none
  | .andAXIv _ => none
  | .segES => none
  | .daa => none
  | .subEbGb e _ => e.ea?
  | .subEvGv e _ => e.ea?
  | .subGbEb _ e => e.ea?
  | .subGvEv _ e => e.ea?
  | .subALIb _ => none
  | .subAXIv _ => none
  | .segCS => none
  | .das => none
  | .xorEbGb e _ => e.ea?
  | .xorEvGv e _ => e.ea?
  | .xorGbEb _ e => e.ea?
  | .xorGvEv _ e => e.ea?
  | .xorALIb _ => none
  | .xorAXIv _ => none
  | .segSS => none
  | .aaa => none
  | .cmpEbGb e _ => e.ea?
  | .cmpEvGv e _ => e.ea?
  | .cmpGbEb _ e => e.ea?
  | .cmpGvEv _ e => e.ea?
  | .cmpALIb _ => none
  | .cmpAXIv _ => none
  | .segDS => none
  | .aas => none
  | .incReg _ => none
  | .decReg _ => none
  | .pushReg _ => none
  | .popReg _ => none
  | .joJb _ _ => none
  | .jnoJb _ _ => none
  | .jbJb _ _ => none
  | .jnbJb _ _ => none
  | .jzJb _ _ => none
  | .jnzJb _ _ => none
  | .jbeJb _ _ => none
  | .jnbeJb _ _ => none
  | .jsJb _ _ => none
  | .jnsJb _ _ => none
  | .jpJb _ _ => none
  | .jnpJb _ _ => none
  | .jlJb _ _ => none
  | .jnlJb _ _ => none
  | .jleJb _ _ => none
  | .jnleJb _ _ => none
  | .addEbIb _ e _ => e.ea?
  | .orEbIb _ e _ => e.ea?
  | .adcEbIb _ e _ => e.ea?
  | .sbbEbIb _ e _ => e.ea?
  | .andEbIb _ e _ => e.ea?
  | .subEbIb _ e _ => e.ea?
  | .xorEbIb _ e _ => e.ea?
  | .cmpEbIb _ e _ => e.ea?
  | .addEvIv e _ => e.ea?
  | .orEvIv e _ => e.ea?
  | .adcEvIv e _ => e.ea?
  | .sbbEvIv e _ => e.ea?
  | .andEvIv e _ => e.ea?
  | .subEvIv e _ => e.ea?
  | .xorEvIv e _ => e.ea?
  | .cmpEvIv e _ => e.ea?
  | .addEvIb e _ => e.ea?
  | .orEvIb e _ => e.ea?
  | .adcEvIb e _ => e.ea?
  | .sbbEvIb e _ => e.ea?
  | .andEvIb e _ => e.ea?
  | .subEvIb e _ => e.ea?
  | .xorEvIb e _ => e.ea?
  | .cmpEvIb e _ => e.ea?
  | .testEbGb e _ => e.ea?
  | .testEvGv e _ => e.ea?
  | .xchgEbGb e _ => e.ea?
  | .xchgEvGv e _ => e.ea?
  | .movEbGb e _ => e.ea?
  | .movEvGv e _ => e.ea?
  | .movGbEb _ e => e.ea?
  | .movGvEv _ e => e.ea?
  | .movEwSw _ _ e => e.ea?
  | .leaGvM _ e => e.ea?
  | .movSwEw _ _ e => e.ea?
  | .popEv _ e => e.ea?
  | .nop => none
  | .xchgAX _ => none
  | .cbw => none
  | .cwd => none
  | .callAp _ _ => none
  | .wait => none
  | .pushf => none
  | .popf => none
  | .sahf => none
  | .lahf => none
  | .movALOb _ => none
  | .movAXOv _ => none
  | .movObAL _ => none
  | .movOvAX _ => none
  | .movsb => none
  | .movsw => none
  | .cmpsb => none
  | .cmpsw => none
  | .testALIb _ => none
  | .testAXIv _ => none
  | .stosb => none
  | .stosw => none
  | .lodsb => none
  | .lodsw => none
  | .scasb => none
  | .scasw => none
  | .movRegIb _ _ => none
  | .movRegIv _ _ => none
  | .retIw _ _ => none
  | .ret _ => none
  | .lesGvMp _ e => e.ea?
  | .ldsGvMp _ e => e.ea?
  | .movEbIb _ e _ => e.ea?
  | .movEvIv _ e _ => e.ea?
  | .retfIw _ _ => none
  | .retf _ => none
  | .int3 => none
  | .intIb _ => none
  | .into => none
  | .iret => none
  | .rolEb _ e => e.ea?
  | .rorEb _ e => e.ea?
  | .rclEb _ e => e.ea?
  | .rcrEb _ e => e.ea?
  | .shlEb _ e => e.ea?
  | .shrEb _ e => e.ea?
  | .setmoEb e => e.ea?
  | .sarEb _ e => e.ea?
  | .rolEv _ e => e.ea?
  | .rorEv _ e => e.ea?
  | .rclEv _ e => e.ea?
  | .rcrEv _ e => e.ea?
  | .shlEv _ e => e.ea?
  | .shrEv _ e => e.ea?
  | .setmoEv e => e.ea?
  | .sarEv _ e => e.ea?
  | .setmocEb e => e.ea?
  | .setmocEv e => e.ea?
  | .aam _ => none
  | .aad _ => none
  | .salc => none
  | .xlat => none
  | .esc _ e => e.ea?
  | .loopneJb _ => none
  | .loopeJb _ => none
  | .loopJb _ => none
  | .jcxzJb _ => none
  | .inALIb _ => none
  | .inAXIb _ => none
  | .outIbAL _ => none
  | .outIbAX _ => none
  | .callJv _ => none
  | .jmpJv _ => none
  | .jmpAp _ _ => none
  | .jmpJb _ => none
  | .inALDX => none
  | .inAXDX => none
  | .outDXAL => none
  | .outDXAX => none
  | .lock _ => none
  | .repne => none
  | .rep => none
  | .hlt => none
  | .cmc => none
  | .testEbIb _ e _ => e.ea?
  | .notEb e => e.ea?
  | .negEb e => e.ea?
  | .mulEb e => e.ea?
  | .imulEb e => e.ea?
  | .divEb e => e.ea?
  | .idivEb e => e.ea?
  | .testEvIv _ e _ => e.ea?
  | .notEv e => e.ea?
  | .negEv e => e.ea?
  | .mulEv e => e.ea?
  | .imulEv e => e.ea?
  | .divEv e => e.ea?
  | .idivEv e => e.ea?
  | .clc => none
  | .stc => none
  | .cli => none
  | .sti => none
  | .cld => none
  | .std => none
  | .incEb e => e.ea?
  | .decEb e => e.ea?
  | .fe2 e => e.ea?
  | .fe3 e => e.ea?
  | .fe4 e => e.ea?
  | .fe5 e => e.ea?
  | .fe6 e => e.ea?
  | .fe7 e => e.ea?
  | .incEv e => e.ea?
  | .decEv e => e.ea?
  | .callEv e => e.ea?
  | .callMp e => e.ea?
  | .jmpEv e => e.ea?
  | .jmpMp e => e.ea?
  | .pushEv _ e => e.ea?

/-- 90+r with r = 0 is NOP, not XCHG AX,AX (R213, R402). -/
def Instr.regOk (i : Instr) : Bool :=
  match i with
  | .addEbGb _ _ => true
  | .addEvGv _ _ => true
  | .addGbEb _ _ => true
  | .addGvEv _ _ => true
  | .addALIb _ => true
  | .addAXIv _ => true
  | .pushSreg _ => true
  | .popSreg _ => true
  | .orEbGb _ _ => true
  | .orEvGv _ _ => true
  | .orGbEb _ _ => true
  | .orGvEv _ _ => true
  | .orALIb _ => true
  | .orAXIv _ => true
  | .adcEbGb _ _ => true
  | .adcEvGv _ _ => true
  | .adcGbEb _ _ => true
  | .adcGvEv _ _ => true
  | .adcALIb _ => true
  | .adcAXIv _ => true
  | .sbbEbGb _ _ => true
  | .sbbEvGv _ _ => true
  | .sbbGbEb _ _ => true
  | .sbbGvEv _ _ => true
  | .sbbALIb _ => true
  | .sbbAXIv _ => true
  | .andEbGb _ _ => true
  | .andEvGv _ _ => true
  | .andGbEb _ _ => true
  | .andGvEv _ _ => true
  | .andALIb _ => true
  | .andAXIv _ => true
  | .segES => true
  | .daa => true
  | .subEbGb _ _ => true
  | .subEvGv _ _ => true
  | .subGbEb _ _ => true
  | .subGvEv _ _ => true
  | .subALIb _ => true
  | .subAXIv _ => true
  | .segCS => true
  | .das => true
  | .xorEbGb _ _ => true
  | .xorEvGv _ _ => true
  | .xorGbEb _ _ => true
  | .xorGvEv _ _ => true
  | .xorALIb _ => true
  | .xorAXIv _ => true
  | .segSS => true
  | .aaa => true
  | .cmpEbGb _ _ => true
  | .cmpEvGv _ _ => true
  | .cmpGbEb _ _ => true
  | .cmpGvEv _ _ => true
  | .cmpALIb _ => true
  | .cmpAXIv _ => true
  | .segDS => true
  | .aas => true
  | .incReg _ => true
  | .decReg _ => true
  | .pushReg _ => true
  | .popReg _ => true
  | .joJb _ _ => true
  | .jnoJb _ _ => true
  | .jbJb _ _ => true
  | .jnbJb _ _ => true
  | .jzJb _ _ => true
  | .jnzJb _ _ => true
  | .jbeJb _ _ => true
  | .jnbeJb _ _ => true
  | .jsJb _ _ => true
  | .jnsJb _ _ => true
  | .jpJb _ _ => true
  | .jnpJb _ _ => true
  | .jlJb _ _ => true
  | .jnlJb _ _ => true
  | .jleJb _ _ => true
  | .jnleJb _ _ => true
  | .addEbIb _ _ _ => true
  | .orEbIb _ _ _ => true
  | .adcEbIb _ _ _ => true
  | .sbbEbIb _ _ _ => true
  | .andEbIb _ _ _ => true
  | .subEbIb _ _ _ => true
  | .xorEbIb _ _ _ => true
  | .cmpEbIb _ _ _ => true
  | .addEvIv _ _ => true
  | .orEvIv _ _ => true
  | .adcEvIv _ _ => true
  | .sbbEvIv _ _ => true
  | .andEvIv _ _ => true
  | .subEvIv _ _ => true
  | .xorEvIv _ _ => true
  | .cmpEvIv _ _ => true
  | .addEvIb _ _ => true
  | .orEvIb _ _ => true
  | .adcEvIb _ _ => true
  | .sbbEvIb _ _ => true
  | .andEvIb _ _ => true
  | .subEvIb _ _ => true
  | .xorEvIb _ _ => true
  | .cmpEvIb _ _ => true
  | .testEbGb _ _ => true
  | .testEvGv _ _ => true
  | .xchgEbGb _ _ => true
  | .xchgEvGv _ _ => true
  | .movEbGb _ _ => true
  | .movEvGv _ _ => true
  | .movGbEb _ _ => true
  | .movGvEv _ _ => true
  | .movEwSw _ _ _ => true
  | .leaGvM _ _ => true
  | .movSwEw _ _ _ => true
  | .popEv _ _ => true
  | .nop => true
  | .xchgAX r => r != .ax
  | .cbw => true
  | .cwd => true
  | .callAp _ _ => true
  | .wait => true
  | .pushf => true
  | .popf => true
  | .sahf => true
  | .lahf => true
  | .movALOb _ => true
  | .movAXOv _ => true
  | .movObAL _ => true
  | .movOvAX _ => true
  | .movsb => true
  | .movsw => true
  | .cmpsb => true
  | .cmpsw => true
  | .testALIb _ => true
  | .testAXIv _ => true
  | .stosb => true
  | .stosw => true
  | .lodsb => true
  | .lodsw => true
  | .scasb => true
  | .scasw => true
  | .movRegIb _ _ => true
  | .movRegIv _ _ => true
  | .retIw _ _ => true
  | .ret _ => true
  | .lesGvMp _ _ => true
  | .ldsGvMp _ _ => true
  | .movEbIb _ _ _ => true
  | .movEvIv _ _ _ => true
  | .retfIw _ _ => true
  | .retf _ => true
  | .int3 => true
  | .intIb _ => true
  | .into => true
  | .iret => true
  | .rolEb _ _ => true
  | .rorEb _ _ => true
  | .rclEb _ _ => true
  | .rcrEb _ _ => true
  | .shlEb _ _ => true
  | .shrEb _ _ => true
  | .setmoEb _ => true
  | .sarEb _ _ => true
  | .rolEv _ _ => true
  | .rorEv _ _ => true
  | .rclEv _ _ => true
  | .rcrEv _ _ => true
  | .shlEv _ _ => true
  | .shrEv _ _ => true
  | .setmoEv _ => true
  | .sarEv _ _ => true
  | .setmocEb _ => true
  | .setmocEv _ => true
  | .aam _ => true
  | .aad _ => true
  | .salc => true
  | .xlat => true
  | .esc _ _ => true
  | .loopneJb _ => true
  | .loopeJb _ => true
  | .loopJb _ => true
  | .jcxzJb _ => true
  | .inALIb _ => true
  | .inAXIb _ => true
  | .outIbAL _ => true
  | .outIbAX _ => true
  | .callJv _ => true
  | .jmpJv _ => true
  | .jmpAp _ _ => true
  | .jmpJb _ => true
  | .inALDX => true
  | .inAXDX => true
  | .outDXAL => true
  | .outDXAX => true
  | .lock _ => true
  | .repne => true
  | .rep => true
  | .hlt => true
  | .cmc => true
  | .testEbIb _ _ _ => true
  | .notEb _ => true
  | .negEb _ => true
  | .mulEb _ => true
  | .imulEb _ => true
  | .divEb _ => true
  | .idivEb _ => true
  | .testEvIv _ _ _ => true
  | .notEv _ => true
  | .negEv _ => true
  | .mulEv _ => true
  | .imulEv _ => true
  | .divEv _ => true
  | .idivEv _ => true
  | .clc => true
  | .stc => true
  | .cli => true
  | .sti => true
  | .cld => true
  | .std => true
  | .incEb _ => true
  | .decEb _ => true
  | .fe2 _ => true
  | .fe3 _ => true
  | .fe4 _ => true
  | .fe5 _ => true
  | .fe6 _ => true
  | .fe7 _ => true
  | .incEv _ => true
  | .decEv _ => true
  | .callEv _ => true
  | .callMp _ => true
  | .jmpEv _ => true
  | .jmpMp _ => true
  | .pushEv _ _ => true

/-- An instruction is well-formed when its memory operand, if any, and its register have an encoding. -/
def Instr.wf (i : Instr) : Bool :=
  i.regOk && (match i.ea? with
    | none => true
    | some ea => ea.wf)

end Sys2Proof
end

