-- ==== Sys2Proof/Decode.lean ====
section
/-!
DEFINITION. From bytes to an instruction and back. `decode` follows the length rule R153 and the opcode map R154 and R155, one function for each row of
sixteen opcodes; it is total, and the only thing it rejects is a byte list that ends inside an instruction, by name. A prefix byte decodes to its own
constructor: an instruction's prefixes are read one after another (R140, R142). `encode` writes an instruction's bytes from the same tables.
-/

namespace Sys2Proof

/-- Why a byte list is not an instruction: it ends before the instruction does. Every complete byte string decodes (R153, R156). -/
inductive DecodeError where
  | truncated
  deriving DecidableEq, Repr

/-- What decoding gives: the instruction and the bytes after it, or a rejection by name. -/
inductive DecodeResult where
  | ok (i : Instr) (rest : List Byte)
  | reject (e : DecodeError)
  deriving DecidableEq, Repr

/-! ## Register codes (R21, R24, R151) -/

/-- 3-bit encoding of a word register (R21). -/
def Reg16.code : Reg16 → BitVec 3
  | .ax => 0#3 | .cx => 1#3 | .dx => 2#3 | .bx => 3#3 | .sp => 4#3 | .bp => 5#3 | .si => 6#3 | .di => 7#3

/-- The word register with a 3-bit encoding (R21). -/
def Reg16.ofCode (c : BitVec 3) : Reg16 :=
  match c.toNat with
  | 0 => .ax | 1 => .cx | 2 => .dx | 3 => .bx | 4 => .sp | 5 => .bp | 6 => .si | _ => .di

/-- 3-bit encoding of a byte register (R21). -/
def Reg8.code : Reg8 → BitVec 3
  | .al => 0#3 | .cl => 1#3 | .dl => 2#3 | .bl => 3#3 | .ah => 4#3 | .ch => 5#3 | .dh => 6#3 | .bh => 7#3

/-- The byte register with a 3-bit encoding (R21). -/
def Reg8.ofCode (c : BitVec 3) : Reg8 :=
  match c.toNat with
  | 0 => .al | 1 => .cl | 2 => .dl | 3 => .bl | 4 => .ah | 5 => .ch | 6 => .dh | _ => .bh

/-- 2-bit encoding of a segment register (R24). -/
def SReg.code : SReg → BitVec 2
  | .es => 0#2 | .cs => 1#2 | .ss => 2#2 | .ds => 3#2

/-- The segment register of a reg field: its low two bits (R147). -/
def SReg.ofReg (c : BitVec 3) : SReg :=
  match c.toNat % 4 with
  | 0 => .es | 1 => .cs | 2 => .ss | _ => .ds

/-- rm encoding of an effective address's registers (R151). -/
def EaBase.code : EaBase → BitVec 3
  | .bxsi => 0#3 | .bxdi => 1#3 | .bpsi => 2#3 | .bpdi => 3#3 | .si => 4#3 | .di => 5#3 | .bp => 6#3 | .bx => 7#3

/-- The registers an rm field names (R151). -/
def EaBase.ofCode (c : BitVec 3) : EaBase :=
  match c.toNat with
  | 0 => .bxsi | 1 => .bxdi | 2 => .bpsi | 3 => .bpdi | 4 => .si | 5 => .di | 6 => .bp | _ => .bx

/-! ## Fields (R143, R144, R148, R149) -/

/-- A word from its two stream bytes, the low byte first (R76, R149). -/
def wordOf (lo hi : Byte) : Word := hi ++ lo

/-- The two stream bytes of a word, the low byte first (R76). -/
def wordBytes (w : Word) : List Byte := [w.extractLsb' 0 8, w.extractLsb' 8 8]

/-- A ModR/M byte from its three fields (R144). -/
def modrmByte (mod : BitVec 2) (reg rm : BitVec 3) : Byte := mod ++ reg ++ rm

/-- The mod field (R144). -/
def modField (b : Byte) : BitVec 2 := b.extractLsb' 6 2

/-- The reg field (R144). -/
def regField (b : Byte) : BitVec 3 := b.extractLsb' 3 3

/-- The rm field (R144). -/
def rmField (b : Byte) : BitVec 3 := b.extractLsb' 0 3

/-- The first value for the main encoding, the second for the other. -/
def Enc.pick {α : Type} (v : Enc) (a b : α) : α :=
  match v with
  | .main => a
  | .second => b

/-- The first value for a count of 1, the second for a count in CL (R306). -/
def Count.pick {α : Type} (c : Count) (a b : α) : α :=
  match c with
  | .one => a
  | .cl => b

/-- Which half of the reg field's values: 0 to 3 are the main encoding, 4 to 7 the second (R147, R416). -/
def Enc.ofReg (g : BitVec 3) : Enc := if g.getLsbD 2 then .second else .main

/-- The reg field that names a segment register in 8C and 8E (R147). -/
def SReg.code3 (s : SReg) (v : Enc) : BitVec 3 := v.pick 0#1 1#1 ++ s.code

/-- An opcode with a register in its low three bits (R143 reg3). -/
def opReg (base : Byte) (r : BitVec 3) : Byte := base ||| r.setWidth 8

/-- An opcode with a segment register in bits 4:3 (R143 sreg2). -/
def opSreg (base : Byte) (s : BitVec 2) : Byte := base ||| (s.setWidth 8 <<< 3)

/-- An E operand with its register named by `f` (R146). -/
def Rm.map {R S : Type} (f : R → S) : Rm R → Rm S
  | .reg r => .reg (f r)
  | .mem ea => .mem ea

/-- Take one stream byte. -/
def takeByte (bs : List Byte) (k : Byte → List Byte → DecodeResult) : DecodeResult :=
  match bs with
  | [] => .reject .truncated
  | b :: rest => k b rest

/-- Take one stream word, the low byte first (R149). -/
def takeWord (bs : List Byte) (k : Word → List Byte → DecodeResult) : DecodeResult :=
  takeByte bs fun lo rest => takeByte rest fun hi rest => k (wordOf lo hi) rest

/-- Take a ModR/M byte and its displacement: the reg field and the E operand (R144, R148). -/
def takeE (bs : List Byte) (k : BitVec 3 → Rm (BitVec 3) → List Byte → DecodeResult) : DecodeResult :=
  takeByte bs fun b rest =>
    match (modField b).toNat with
    | 0 =>
      if rmField b = 6#3 then takeWord rest fun d rest => k (regField b) (.mem (.direct d)) rest
      else k (regField b) (.mem (.nodisp (EaBase.ofCode (rmField b)))) rest
    | 1 => takeByte rest fun d rest => k (regField b) (.mem (.disp8 (EaBase.ofCode (rmField b)) d)) rest
    | 2 => takeWord rest fun d rest => k (regField b) (.mem (.disp16 (EaBase.ofCode (rmField b)) d)) rest
    | _ => k (regField b) (.reg (rmField b)) rest

/-- ModR/M with a byte-wide E operand (R146). -/
def takeE8 (bs : List Byte) (k : BitVec 3 → Rm8 → List Byte → DecodeResult) : DecodeResult :=
  takeE bs fun g e rest => k g (e.map Reg8.ofCode) rest

/-- ModR/M with a word-wide E operand (R146). -/
def takeE16 (bs : List Byte) (k : BitVec 3 → Rm16 → List Byte → DecodeResult) : DecodeResult :=
  takeE bs fun g e rest => k g (e.map Reg16.ofCode) rest

/-! ## Operand shapes, one reader for each -/

/-- No operand bytes. -/
def plain (i : Instr) (bs : List Byte) : DecodeResult := .ok i bs

/-- One immediate, port, displacement or type byte. -/
def withByte (mk : Byte → Instr) (bs : List Byte) : DecodeResult := takeByte bs fun b rest => .ok (mk b) rest

/-- One immediate, offset or displacement word. -/
def withWord (mk : Word → Instr) (bs : List Byte) : DecodeResult := takeWord bs fun w rest => .ok (mk w) rest

/-- A far pointer: offset, then segment (R140). -/
def withFar (mk : Word → Word → Instr) (bs : List Byte) : DecodeResult :=
  takeWord bs fun off rest => takeWord rest fun sel rest => .ok (mk off sel) rest

/-- Eb, Gb. -/
def withEG8 (mk : Rm8 → Reg8 → Instr) (bs : List Byte) : DecodeResult := takeE8 bs fun g e rest => .ok (mk e (Reg8.ofCode g)) rest

/-- Ev, Gv. -/
def withEG16 (mk : Rm16 → Reg16 → Instr) (bs : List Byte) : DecodeResult := takeE16 bs fun g e rest => .ok (mk e (Reg16.ofCode g)) rest

/-- Gb, Eb. -/
def withGE8 (mk : Reg8 → Rm8 → Instr) (bs : List Byte) : DecodeResult := takeE8 bs fun g e rest => .ok (mk (Reg8.ofCode g) e) rest

/-- Gv, Ev. -/
def withGE16 (mk : Reg16 → Rm16 → Instr) (bs : List Byte) : DecodeResult := takeE16 bs fun g e rest => .ok (mk (Reg16.ofCode g) e) rest

/-- A group's byte-wide E operand, the reg field choosing the operation (R155). -/
def withE8 (mk : BitVec 3 → Rm8 → Instr) (bs : List Byte) : DecodeResult := takeE8 bs fun g e rest => .ok (mk g e) rest

/-- A group's word-wide E operand. -/
def withE16 (mk : BitVec 3 → Rm16 → Instr) (bs : List Byte) : DecodeResult := takeE16 bs fun g e rest => .ok (mk g e) rest

/-- Eb, Ib with the immediate after any displacement (R149). -/
def withE8I8 (mk : BitVec 3 → Rm8 → Byte → Instr) (bs : List Byte) : DecodeResult :=
  takeE8 bs fun g e rest => takeByte rest fun imm rest => .ok (mk g e imm) rest

/-- Ev, Iv. -/
def withE16I16 (mk : BitVec 3 → Rm16 → Word → Instr) (bs : List Byte) : DecodeResult :=
  takeE16 bs fun g e rest => takeWord rest fun imm rest => .ok (mk g e imm) rest

/-- Ev, Ib. -/
def withE16I8 (mk : BitVec 3 → Rm16 → Byte → Instr) (bs : List Byte) : DecodeResult :=
  takeE16 bs fun g e rest => takeByte rest fun imm rest => .ok (mk g e imm) rest

/-! ## Group opcodes, by the reg field (R155) -/

/-- 80 /0 to /7. -/
def group80 (reg : BitVec 3) (e : Rm8) (imm : Byte) : Instr :=
  match reg.toNat with
  | 0 => .addEbIb .main e imm
  | 1 => .orEbIb .main e imm
  | 2 => .adcEbIb .main e imm
  | 3 => .sbbEbIb .main e imm
  | 4 => .andEbIb .main e imm
  | 5 => .subEbIb .main e imm
  | 6 => .xorEbIb .main e imm
  | _ => .cmpEbIb .main e imm

/-- 81 /0 to /7. -/
def group81 (reg : BitVec 3) (e : Rm16) (imm : Word) : Instr :=
  match reg.toNat with
  | 0 => .addEvIv e imm
  | 1 => .orEvIv e imm
  | 2 => .adcEvIv e imm
  | 3 => .sbbEvIv e imm
  | 4 => .andEvIv e imm
  | 5 => .subEvIv e imm
  | 6 => .xorEvIv e imm
  | _ => .cmpEvIv e imm

/-- 82 /0 to /7. -/
def group82 (reg : BitVec 3) (e : Rm8) (imm : Byte) : Instr :=
  match reg.toNat with
  | 0 => .addEbIb .second e imm
  | 1 => .orEbIb .second e imm
  | 2 => .adcEbIb .second e imm
  | 3 => .sbbEbIb .second e imm
  | 4 => .andEbIb .second e imm
  | 5 => .subEbIb .second e imm
  | 6 => .xorEbIb .second e imm
  | _ => .cmpEbIb .second e imm

/-- 83 /0 to /7. -/
def group83 (reg : BitVec 3) (e : Rm16) (imm : Byte) : Instr :=
  match reg.toNat with
  | 0 => .addEvIb e imm
  | 1 => .orEvIb e imm
  | 2 => .adcEvIb e imm
  | 3 => .sbbEvIb e imm
  | 4 => .andEvIb e imm
  | 5 => .subEvIb e imm
  | 6 => .xorEvIb e imm
  | _ => .cmpEvIb e imm

/-- D0 /0 to /7. -/
def groupD0 (reg : BitVec 3) (e : Rm8) : Instr :=
  match reg.toNat with
  | 0 => .rolEb .one e
  | 1 => .rorEb .one e
  | 2 => .rclEb .one e
  | 3 => .rcrEb .one e
  | 4 => .shlEb .one e
  | 5 => .shrEb .one e
  | 6 => .setmoEb e
  | _ => .sarEb .one e

/-- D1 /0 to /7. -/
def groupD1 (reg : BitVec 3) (e : Rm16) : Instr :=
  match reg.toNat with
  | 0 => .rolEv .one e
  | 1 => .rorEv .one e
  | 2 => .rclEv .one e
  | 3 => .rcrEv .one e
  | 4 => .shlEv .one e
  | 5 => .shrEv .one e
  | 6 => .setmoEv e
  | _ => .sarEv .one e

/-- D2 /0 to /7. -/
def groupD2 (reg : BitVec 3) (e : Rm8) : Instr :=
  match reg.toNat with
  | 0 => .rolEb .cl e
  | 1 => .rorEb .cl e
  | 2 => .rclEb .cl e
  | 3 => .rcrEb .cl e
  | 4 => .shlEb .cl e
  | 5 => .shrEb .cl e
  | 6 => .setmocEb e
  | _ => .sarEb .cl e

/-- D3 /0 to /7. -/
def groupD3 (reg : BitVec 3) (e : Rm16) : Instr :=
  match reg.toNat with
  | 0 => .rolEv .cl e
  | 1 => .rorEv .cl e
  | 2 => .rclEv .cl e
  | 3 => .rcrEv .cl e
  | 4 => .shlEv .cl e
  | 5 => .shrEv .cl e
  | 6 => .setmocEv e
  | _ => .sarEv .cl e

/-- FE /0 to /7. -/
def groupFE (reg : BitVec 3) (e : Rm8) : Instr :=
  match reg.toNat with
  | 0 => .incEb e
  | 1 => .decEb e
  | 2 => .fe2 e
  | 3 => .fe3 e
  | 4 => .fe4 e
  | 5 => .fe5 e
  | 6 => .fe6 e
  | _ => .fe7 e

/-- FF /0 to /7. -/
def groupFF (reg : BitVec 3) (e : Rm16) : Instr :=
  match reg.toNat with
  | 0 => .incEv e
  | 1 => .decEv e
  | 2 => .callEv e
  | 3 => .callMp e
  | 4 => .jmpEv e
  | 5 => .jmpMp e
  | 6 => .pushEv .main e
  | _ => .pushEv .second e

/-- F6 /2 to /7, the members without an immediate. -/
def groupF6 (reg : BitVec 3) (e : Rm8) : Instr :=
  match reg.toNat with
  | 2 => .notEb e
  | 3 => .negEb e
  | 4 => .mulEb e
  | 5 => .imulEb e
  | 6 => .divEb e
  | _ => .idivEb e

/-- F6: /0 and /1 carry an immediate, the others do not (R153). -/
def decodeF6 (bs : List Byte) : DecodeResult :=
  takeE8 bs fun g e rest =>
    match g.toNat with
    | 0 => takeByte rest fun imm rest => .ok (.testEbIb .main e imm) rest
    | 1 => takeByte rest fun imm rest => .ok (.testEbIb .second e imm) rest
    | _ => .ok (groupF6 g e) rest

/-- F7 /2 to /7, the members without an immediate. -/
def groupF7 (reg : BitVec 3) (e : Rm16) : Instr :=
  match reg.toNat with
  | 2 => .notEv e
  | 3 => .negEv e
  | 4 => .mulEv e
  | 5 => .imulEv e
  | 6 => .divEv e
  | _ => .idivEv e

/-- F7: /0 and /1 carry an immediate, the others do not (R153). -/
def decodeF7 (bs : List Byte) : DecodeResult :=
  takeE16 bs fun g e rest =>
    match g.toNat with
    | 0 => takeWord rest fun imm rest => .ok (.testEvIv .main e imm) rest
    | 1 => takeWord rest fun imm rest => .ok (.testEvIv .second e imm) rest
    | _ => .ok (groupF7 g e) rest

/-! ## The opcode map (R154), a row of sixteen opcodes at a time; `n` is the low nibble -/

/-- Opcodes 00 to 0F. -/
def decodeRow0 (n : Nat) (bs : List Byte) : DecodeResult :=
  match n with
  | 0 => withEG8 .addEbGb bs
  | 1 => withEG16 .addEvGv bs
  | 2 => withGE8 .addGbEb bs
  | 3 => withGE16 .addGvEv bs
  | 4 => withByte .addALIb bs
  | 5 => withWord .addAXIv bs
  | 6 => plain (.pushSreg .es) bs
  | 7 => plain (.popSreg .es) bs
  | 8 => withEG8 .orEbGb bs
  | 9 => withEG16 .orEvGv bs
  | 10 => withGE8 .orGbEb bs
  | 11 => withGE16 .orGvEv bs
  | 12 => withByte .orALIb bs
  | 13 => withWord .orAXIv bs
  | 14 => plain (.pushSreg .cs) bs
  | _ => plain (.popSreg .cs) bs

/-- Opcodes 10 to 1F. -/
def decodeRow1 (n : Nat) (bs : List Byte) : DecodeResult :=
  match n with
  | 0 => withEG8 .adcEbGb bs
  | 1 => withEG16 .adcEvGv bs
  | 2 => withGE8 .adcGbEb bs
  | 3 => withGE16 .adcGvEv bs
  | 4 => withByte .adcALIb bs
  | 5 => withWord .adcAXIv bs
  | 6 => plain (.pushSreg .ss) bs
  | 7 => plain (.popSreg .ss) bs
  | 8 => withEG8 .sbbEbGb bs
  | 9 => withEG16 .sbbEvGv bs
  | 10 => withGE8 .sbbGbEb bs
  | 11 => withGE16 .sbbGvEv bs
  | 12 => withByte .sbbALIb bs
  | 13 => withWord .sbbAXIv bs
  | 14 => plain (.pushSreg .ds) bs
  | _ => plain (.popSreg .ds) bs

/-- Opcodes 20 to 2F. -/
def decodeRow2 (n : Nat) (bs : List Byte) : DecodeResult :=
  match n with
  | 0 => withEG8 .andEbGb bs
  | 1 => withEG16 .andEvGv bs
  | 2 => withGE8 .andGbEb bs
  | 3 => withGE16 .andGvEv bs
  | 4 => withByte .andALIb bs
  | 5 => withWord .andAXIv bs
  | 6 => plain .segES bs
  | 7 => plain .daa bs
  | 8 => withEG8 .subEbGb bs
  | 9 => withEG16 .subEvGv bs
  | 10 => withGE8 .subGbEb bs
  | 11 => withGE16 .subGvEv bs
  | 12 => withByte .subALIb bs
  | 13 => withWord .subAXIv bs
  | 14 => plain .segCS bs
  | _ => plain .das bs

/-- Opcodes 30 to 3F. -/
def decodeRow3 (n : Nat) (bs : List Byte) : DecodeResult :=
  match n with
  | 0 => withEG8 .xorEbGb bs
  | 1 => withEG16 .xorEvGv bs
  | 2 => withGE8 .xorGbEb bs
  | 3 => withGE16 .xorGvEv bs
  | 4 => withByte .xorALIb bs
  | 5 => withWord .xorAXIv bs
  | 6 => plain .segSS bs
  | 7 => plain .aaa bs
  | 8 => withEG8 .cmpEbGb bs
  | 9 => withEG16 .cmpEvGv bs
  | 10 => withGE8 .cmpGbEb bs
  | 11 => withGE16 .cmpGvEv bs
  | 12 => withByte .cmpALIb bs
  | 13 => withWord .cmpAXIv bs
  | 14 => plain .segDS bs
  | _ => plain .aas bs

/-- Opcodes 40 to 4F. -/
def decodeRow4 (n : Nat) (bs : List Byte) : DecodeResult :=
  match n with
  | 0 => plain (.incReg .ax) bs
  | 1 => plain (.incReg .cx) bs
  | 2 => plain (.incReg .dx) bs
  | 3 => plain (.incReg .bx) bs
  | 4 => plain (.incReg .sp) bs
  | 5 => plain (.incReg .bp) bs
  | 6 => plain (.incReg .si) bs
  | 7 => plain (.incReg .di) bs
  | 8 => plain (.decReg .ax) bs
  | 9 => plain (.decReg .cx) bs
  | 10 => plain (.decReg .dx) bs
  | 11 => plain (.decReg .bx) bs
  | 12 => plain (.decReg .sp) bs
  | 13 => plain (.decReg .bp) bs
  | 14 => plain (.decReg .si) bs
  | _ => plain (.decReg .di) bs

/-- Opcodes 50 to 5F. -/
def decodeRow5 (n : Nat) (bs : List Byte) : DecodeResult :=
  match n with
  | 0 => plain (.pushReg .ax) bs
  | 1 => plain (.pushReg .cx) bs
  | 2 => plain (.pushReg .dx) bs
  | 3 => plain (.pushReg .bx) bs
  | 4 => plain (.pushReg .sp) bs
  | 5 => plain (.pushReg .bp) bs
  | 6 => plain (.pushReg .si) bs
  | 7 => plain (.pushReg .di) bs
  | 8 => plain (.popReg .ax) bs
  | 9 => plain (.popReg .cx) bs
  | 10 => plain (.popReg .dx) bs
  | 11 => plain (.popReg .bx) bs
  | 12 => plain (.popReg .sp) bs
  | 13 => plain (.popReg .bp) bs
  | 14 => plain (.popReg .si) bs
  | _ => plain (.popReg .di) bs

/-- Opcodes 60 to 6F. -/
def decodeRow6 (n : Nat) (bs : List Byte) : DecodeResult :=
  match n with
  | 0 => withByte (.joJb .second) bs
  | 1 => withByte (.jnoJb .second) bs
  | 2 => withByte (.jbJb .second) bs
  | 3 => withByte (.jnbJb .second) bs
  | 4 => withByte (.jzJb .second) bs
  | 5 => withByte (.jnzJb .second) bs
  | 6 => withByte (.jbeJb .second) bs
  | 7 => withByte (.jnbeJb .second) bs
  | 8 => withByte (.jsJb .second) bs
  | 9 => withByte (.jnsJb .second) bs
  | 10 => withByte (.jpJb .second) bs
  | 11 => withByte (.jnpJb .second) bs
  | 12 => withByte (.jlJb .second) bs
  | 13 => withByte (.jnlJb .second) bs
  | 14 => withByte (.jleJb .second) bs
  | _ => withByte (.jnleJb .second) bs

/-- Opcodes 70 to 7F. -/
def decodeRow7 (n : Nat) (bs : List Byte) : DecodeResult :=
  match n with
  | 0 => withByte (.joJb .main) bs
  | 1 => withByte (.jnoJb .main) bs
  | 2 => withByte (.jbJb .main) bs
  | 3 => withByte (.jnbJb .main) bs
  | 4 => withByte (.jzJb .main) bs
  | 5 => withByte (.jnzJb .main) bs
  | 6 => withByte (.jbeJb .main) bs
  | 7 => withByte (.jnbeJb .main) bs
  | 8 => withByte (.jsJb .main) bs
  | 9 => withByte (.jnsJb .main) bs
  | 10 => withByte (.jpJb .main) bs
  | 11 => withByte (.jnpJb .main) bs
  | 12 => withByte (.jlJb .main) bs
  | 13 => withByte (.jnlJb .main) bs
  | 14 => withByte (.jleJb .main) bs
  | _ => withByte (.jnleJb .main) bs

/-- Opcodes 80 to 8F. -/
def decodeRow8 (n : Nat) (bs : List Byte) : DecodeResult :=
  match n with
  | 0 => withE8I8 group80 bs
  | 1 => withE16I16 group81 bs
  | 2 => withE8I8 group82 bs
  | 3 => withE16I8 group83 bs
  | 4 => withEG8 .testEbGb bs
  | 5 => withEG16 .testEvGv bs
  | 6 => withEG8 .xchgEbGb bs
  | 7 => withEG16 .xchgEvGv bs
  | 8 => withEG8 .movEbGb bs
  | 9 => withEG16 .movEvGv bs
  | 10 => withGE8 .movGbEb bs
  | 11 => withGE16 .movGvEv bs
  | 12 => withE16 (fun g e => .movEwSw (Enc.ofReg g) (SReg.ofReg g) e) bs
  | 13 => withGE16 .leaGvM bs
  | 14 => withE16 (fun g e => .movSwEw (Enc.ofReg g) (SReg.ofReg g) e) bs
  | _ => withE16 .popEv bs

/-- Opcodes 90 to 9F. -/
def decodeRow9 (n : Nat) (bs : List Byte) : DecodeResult :=
  match n with
  | 0 => plain .nop bs
  | 1 => plain (.xchgAX .cx) bs
  | 2 => plain (.xchgAX .dx) bs
  | 3 => plain (.xchgAX .bx) bs
  | 4 => plain (.xchgAX .sp) bs
  | 5 => plain (.xchgAX .bp) bs
  | 6 => plain (.xchgAX .si) bs
  | 7 => plain (.xchgAX .di) bs
  | 8 => plain .cbw bs
  | 9 => plain .cwd bs
  | 10 => withFar .callAp bs
  | 11 => plain .wait bs
  | 12 => plain .pushf bs
  | 13 => plain .popf bs
  | 14 => plain .sahf bs
  | _ => plain .lahf bs

/-- Opcodes A0 to AF. -/
def decodeRowA (n : Nat) (bs : List Byte) : DecodeResult :=
  match n with
  | 0 => withWord .movALOb bs
  | 1 => withWord .movAXOv bs
  | 2 => withWord .movObAL bs
  | 3 => withWord .movOvAX bs
  | 4 => plain .movsb bs
  | 5 => plain .movsw bs
  | 6 => plain .cmpsb bs
  | 7 => plain .cmpsw bs
  | 8 => withByte .testALIb bs
  | 9 => withWord .testAXIv bs
  | 10 => plain .stosb bs
  | 11 => plain .stosw bs
  | 12 => plain .lodsb bs
  | 13 => plain .lodsw bs
  | 14 => plain .scasb bs
  | _ => plain .scasw bs

/-- Opcodes B0 to BF. -/
def decodeRowB (n : Nat) (bs : List Byte) : DecodeResult :=
  match n with
  | 0 => withByte (.movRegIb .al) bs
  | 1 => withByte (.movRegIb .cl) bs
  | 2 => withByte (.movRegIb .dl) bs
  | 3 => withByte (.movRegIb .bl) bs
  | 4 => withByte (.movRegIb .ah) bs
  | 5 => withByte (.movRegIb .ch) bs
  | 6 => withByte (.movRegIb .dh) bs
  | 7 => withByte (.movRegIb .bh) bs
  | 8 => withWord (.movRegIv .ax) bs
  | 9 => withWord (.movRegIv .cx) bs
  | 10 => withWord (.movRegIv .dx) bs
  | 11 => withWord (.movRegIv .bx) bs
  | 12 => withWord (.movRegIv .sp) bs
  | 13 => withWord (.movRegIv .bp) bs
  | 14 => withWord (.movRegIv .si) bs
  | _ => withWord (.movRegIv .di) bs

/-- Opcodes C0 to CF. -/
def decodeRowC (n : Nat) (bs : List Byte) : DecodeResult :=
  match n with
  | 0 => withWord (.retIw .second) bs
  | 1 => plain (.ret .second) bs
  | 2 => withWord (.retIw .main) bs
  | 3 => plain (.ret .main) bs
  | 4 => withGE16 .lesGvMp bs
  | 5 => withGE16 .ldsGvMp bs
  | 6 => withE8I8 .movEbIb bs
  | 7 => withE16I16 .movEvIv bs
  | 8 => withWord (.retfIw .second) bs
  | 9 => plain (.retf .second) bs
  | 10 => withWord (.retfIw .main) bs
  | 11 => plain (.retf .main) bs
  | 12 => plain .int3 bs
  | 13 => withByte .intIb bs
  | 14 => plain .into bs
  | _ => plain .iret bs

/-- Opcodes D0 to DF. -/
def decodeRowD (n : Nat) (bs : List Byte) : DecodeResult :=
  match n with
  | 0 => withE8 groupD0 bs
  | 1 => withE16 groupD1 bs
  | 2 => withE8 groupD2 bs
  | 3 => withE16 groupD3 bs
  | 4 => withByte .aam bs
  | 5 => withByte .aad bs
  | 6 => plain .salc bs
  | 7 => plain .xlat bs
  | 8 => withE16 (fun g => .esc (0#3 ++ g)) bs
  | 9 => withE16 (fun g => .esc (1#3 ++ g)) bs
  | 10 => withE16 (fun g => .esc (2#3 ++ g)) bs
  | 11 => withE16 (fun g => .esc (3#3 ++ g)) bs
  | 12 => withE16 (fun g => .esc (4#3 ++ g)) bs
  | 13 => withE16 (fun g => .esc (5#3 ++ g)) bs
  | 14 => withE16 (fun g => .esc (6#3 ++ g)) bs
  | _ => withE16 (fun g => .esc (7#3 ++ g)) bs

/-- Opcodes E0 to EF. -/
def decodeRowE (n : Nat) (bs : List Byte) : DecodeResult :=
  match n with
  | 0 => withByte .loopneJb bs
  | 1 => withByte .loopeJb bs
  | 2 => withByte .loopJb bs
  | 3 => withByte .jcxzJb bs
  | 4 => withByte .inALIb bs
  | 5 => withByte .inAXIb bs
  | 6 => withByte .outIbAL bs
  | 7 => withByte .outIbAX bs
  | 8 => withWord .callJv bs
  | 9 => withWord .jmpJv bs
  | 10 => withFar .jmpAp bs
  | 11 => withByte .jmpJb bs
  | 12 => plain .inALDX bs
  | 13 => plain .inAXDX bs
  | 14 => plain .outDXAL bs
  | _ => plain .outDXAX bs

/-- Opcodes F0 to FF. -/
def decodeRowF (n : Nat) (bs : List Byte) : DecodeResult :=
  match n with
  | 0 => plain (.lock .main) bs
  | 1 => plain (.lock .second) bs
  | 2 => plain .repne bs
  | 3 => plain .rep bs
  | 4 => plain .hlt bs
  | 5 => plain .cmc bs
  | 6 => decodeF6 bs
  | 7 => decodeF7 bs
  | 8 => plain .clc bs
  | 9 => plain .stc bs
  | 10 => plain .cli bs
  | 11 => plain .sti bs
  | 12 => plain .cld bs
  | 13 => plain .std bs
  | 14 => withE8 groupFE bs
  | _ => withE16 groupFF bs

/-- The instruction an opcode byte begins, read from the bytes after it (R153, R154). -/
def decodeOp (op : Byte) (bs : List Byte) : DecodeResult :=
  match op.toNat / 16 with
  | 0 => decodeRow0 (op.toNat % 16) bs
  | 1 => decodeRow1 (op.toNat % 16) bs
  | 2 => decodeRow2 (op.toNat % 16) bs
  | 3 => decodeRow3 (op.toNat % 16) bs
  | 4 => decodeRow4 (op.toNat % 16) bs
  | 5 => decodeRow5 (op.toNat % 16) bs
  | 6 => decodeRow6 (op.toNat % 16) bs
  | 7 => decodeRow7 (op.toNat % 16) bs
  | 8 => decodeRow8 (op.toNat % 16) bs
  | 9 => decodeRow9 (op.toNat % 16) bs
  | 10 => decodeRowA (op.toNat % 16) bs
  | 11 => decodeRowB (op.toNat % 16) bs
  | 12 => decodeRowC (op.toNat % 16) bs
  | 13 => decodeRowD (op.toNat % 16) bs
  | 14 => decodeRowE (op.toNat % 16) bs
  | _ => decodeRowF (op.toNat % 16) bs

/-- The instruction, or prefix byte, at the head of a byte list, and the bytes after it (R140, R162). -/
def decode (bs : List Byte) : DecodeResult := takeByte bs decodeOp

/-- The bytes of the instruction at the head of a list, and its length (R153). -/
def decodeLength (bs : List Byte) : Nat :=
  match decode bs with
  | .ok _ rest => bs.length - rest.length
  | .reject _ => 0

/-- No instruction is longer than this without its prefixes: opcode, ModR/M, a word displacement and a word immediate (R153). -/
def maxInstrBytes : Nat := 6

/-! ## The encoder, from the same tables -/

/-- ModR/M byte and displacement of an E operand, with the reg field given (R144, R148). -/
def encE {R : Type} (code : R → BitVec 3) (reg : BitVec 3) : Rm R → List Byte
  | .reg r => [modrmByte 3#2 reg (code r)]
  | .mem (.nodisp b) => [modrmByte 0#2 reg b.code]
  | .mem (.disp8 b d) => [modrmByte 1#2 reg b.code, d]
  | .mem (.disp16 b d) => modrmByte 2#2 reg b.code :: wordBytes d
  | .mem (.direct d) => modrmByte 0#2 reg 6#3 :: wordBytes d

/-- Byte-wide E operand. -/
def encE8 (reg : BitVec 3) (e : Rm8) : List Byte := encE Reg8.code reg e

/-- Word-wide E operand. -/
def encE16 (reg : BitVec 3) (e : Rm16) : List Byte := encE Reg16.code reg e

/-- The bytes of an instruction (R140, R154, R155). -/
def encode (i : Instr) : List Byte :=
  match i with
  | .addEbGb e g => 0x00#8 :: encE8 g.code e
  | .addEvGv e g => 0x01#8 :: encE16 g.code e
  | .addGbEb g e => 0x02#8 :: encE8 g.code e
  | .addGvEv g e => 0x03#8 :: encE16 g.code e
  | .addALIb imm => [0x04#8, imm]
  | .addAXIv imm => 0x05#8 :: wordBytes imm
  | .pushSreg s => [opSreg 0x06#8 s.code]
  | .popSreg s => [opSreg 0x07#8 s.code]
  | .orEbGb e g => 0x08#8 :: encE8 g.code e
  | .orEvGv e g => 0x09#8 :: encE16 g.code e
  | .orGbEb g e => 0x0A#8 :: encE8 g.code e
  | .orGvEv g e => 0x0B#8 :: encE16 g.code e
  | .orALIb imm => [0x0C#8, imm]
  | .orAXIv imm => 0x0D#8 :: wordBytes imm
  | .adcEbGb e g => 0x10#8 :: encE8 g.code e
  | .adcEvGv e g => 0x11#8 :: encE16 g.code e
  | .adcGbEb g e => 0x12#8 :: encE8 g.code e
  | .adcGvEv g e => 0x13#8 :: encE16 g.code e
  | .adcALIb imm => [0x14#8, imm]
  | .adcAXIv imm => 0x15#8 :: wordBytes imm
  | .sbbEbGb e g => 0x18#8 :: encE8 g.code e
  | .sbbEvGv e g => 0x19#8 :: encE16 g.code e
  | .sbbGbEb g e => 0x1A#8 :: encE8 g.code e
  | .sbbGvEv g e => 0x1B#8 :: encE16 g.code e
  | .sbbALIb imm => [0x1C#8, imm]
  | .sbbAXIv imm => 0x1D#8 :: wordBytes imm
  | .andEbGb e g => 0x20#8 :: encE8 g.code e
  | .andEvGv e g => 0x21#8 :: encE16 g.code e
  | .andGbEb g e => 0x22#8 :: encE8 g.code e
  | .andGvEv g e => 0x23#8 :: encE16 g.code e
  | .andALIb imm => [0x24#8, imm]
  | .andAXIv imm => 0x25#8 :: wordBytes imm
  | .segES => [0x26#8]
  | .daa => [0x27#8]
  | .subEbGb e g => 0x28#8 :: encE8 g.code e
  | .subEvGv e g => 0x29#8 :: encE16 g.code e
  | .subGbEb g e => 0x2A#8 :: encE8 g.code e
  | .subGvEv g e => 0x2B#8 :: encE16 g.code e
  | .subALIb imm => [0x2C#8, imm]
  | .subAXIv imm => 0x2D#8 :: wordBytes imm
  | .segCS => [0x2E#8]
  | .das => [0x2F#8]
  | .xorEbGb e g => 0x30#8 :: encE8 g.code e
  | .xorEvGv e g => 0x31#8 :: encE16 g.code e
  | .xorGbEb g e => 0x32#8 :: encE8 g.code e
  | .xorGvEv g e => 0x33#8 :: encE16 g.code e
  | .xorALIb imm => [0x34#8, imm]
  | .xorAXIv imm => 0x35#8 :: wordBytes imm
  | .segSS => [0x36#8]
  | .aaa => [0x37#8]
  | .cmpEbGb e g => 0x38#8 :: encE8 g.code e
  | .cmpEvGv e g => 0x39#8 :: encE16 g.code e
  | .cmpGbEb g e => 0x3A#8 :: encE8 g.code e
  | .cmpGvEv g e => 0x3B#8 :: encE16 g.code e
  | .cmpALIb imm => [0x3C#8, imm]
  | .cmpAXIv imm => 0x3D#8 :: wordBytes imm
  | .segDS => [0x3E#8]
  | .aas => [0x3F#8]
  | .incReg r => [opReg 0x40#8 r.code]
  | .decReg r => [opReg 0x48#8 r.code]
  | .pushReg r => [opReg 0x50#8 r.code]
  | .popReg r => [opReg 0x58#8 r.code]
  | .joJb v disp => [v.pick 0x70#8 0x60#8, disp]
  | .jnoJb v disp => [v.pick 0x71#8 0x61#8, disp]
  | .jbJb v disp => [v.pick 0x72#8 0x62#8, disp]
  | .jnbJb v disp => [v.pick 0x73#8 0x63#8, disp]
  | .jzJb v disp => [v.pick 0x74#8 0x64#8, disp]
  | .jnzJb v disp => [v.pick 0x75#8 0x65#8, disp]
  | .jbeJb v disp => [v.pick 0x76#8 0x66#8, disp]
  | .jnbeJb v disp => [v.pick 0x77#8 0x67#8, disp]
  | .jsJb v disp => [v.pick 0x78#8 0x68#8, disp]
  | .jnsJb v disp => [v.pick 0x79#8 0x69#8, disp]
  | .jpJb v disp => [v.pick 0x7A#8 0x6A#8, disp]
  | .jnpJb v disp => [v.pick 0x7B#8 0x6B#8, disp]
  | .jlJb v disp => [v.pick 0x7C#8 0x6C#8, disp]
  | .jnlJb v disp => [v.pick 0x7D#8 0x6D#8, disp]
  | .jleJb v disp => [v.pick 0x7E#8 0x6E#8, disp]
  | .jnleJb v disp => [v.pick 0x7F#8 0x6F#8, disp]
  | .addEbIb v e imm => v.pick 0x80#8 0x82#8 :: (encE8 0#3 e ++ [imm])
  | .orEbIb v e imm => v.pick 0x80#8 0x82#8 :: (encE8 1#3 e ++ [imm])
  | .adcEbIb v e imm => v.pick 0x80#8 0x82#8 :: (encE8 2#3 e ++ [imm])
  | .sbbEbIb v e imm => v.pick 0x80#8 0x82#8 :: (encE8 3#3 e ++ [imm])
  | .andEbIb v e imm => v.pick 0x80#8 0x82#8 :: (encE8 4#3 e ++ [imm])
  | .subEbIb v e imm => v.pick 0x80#8 0x82#8 :: (encE8 5#3 e ++ [imm])
  | .xorEbIb v e imm => v.pick 0x80#8 0x82#8 :: (encE8 6#3 e ++ [imm])
  | .cmpEbIb v e imm => v.pick 0x80#8 0x82#8 :: (encE8 7#3 e ++ [imm])
  | .addEvIv e imm => 0x81#8 :: (encE16 0#3 e ++ wordBytes imm)
  | .orEvIv e imm => 0x81#8 :: (encE16 1#3 e ++ wordBytes imm)
  | .adcEvIv e imm => 0x81#8 :: (encE16 2#3 e ++ wordBytes imm)
  | .sbbEvIv e imm => 0x81#8 :: (encE16 3#3 e ++ wordBytes imm)
  | .andEvIv e imm => 0x81#8 :: (encE16 4#3 e ++ wordBytes imm)
  | .subEvIv e imm => 0x81#8 :: (encE16 5#3 e ++ wordBytes imm)
  | .xorEvIv e imm => 0x81#8 :: (encE16 6#3 e ++ wordBytes imm)
  | .cmpEvIv e imm => 0x81#8 :: (encE16 7#3 e ++ wordBytes imm)
  | .addEvIb e imm => 0x83#8 :: (encE16 0#3 e ++ [imm])
  | .orEvIb e imm => 0x83#8 :: (encE16 1#3 e ++ [imm])
  | .adcEvIb e imm => 0x83#8 :: (encE16 2#3 e ++ [imm])
  | .sbbEvIb e imm => 0x83#8 :: (encE16 3#3 e ++ [imm])
  | .andEvIb e imm => 0x83#8 :: (encE16 4#3 e ++ [imm])
  | .subEvIb e imm => 0x83#8 :: (encE16 5#3 e ++ [imm])
  | .xorEvIb e imm => 0x83#8 :: (encE16 6#3 e ++ [imm])
  | .cmpEvIb e imm => 0x83#8 :: (encE16 7#3 e ++ [imm])
  | .testEbGb e g => 0x84#8 :: encE8 g.code e
  | .testEvGv e g => 0x85#8 :: encE16 g.code e
  | .xchgEbGb e g => 0x86#8 :: encE8 g.code e
  | .xchgEvGv e g => 0x87#8 :: encE16 g.code e
  | .movEbGb e g => 0x88#8 :: encE8 g.code e
  | .movEvGv e g => 0x89#8 :: encE16 g.code e
  | .movGbEb g e => 0x8A#8 :: encE8 g.code e
  | .movGvEv g e => 0x8B#8 :: encE16 g.code e
  | .movEwSw v s e => 0x8C#8 :: encE16 (s.code3 v) e
  | .leaGvM g e => 0x8D#8 :: encE16 g.code e
  | .movSwEw v s e => 0x8E#8 :: encE16 (s.code3 v) e
  | .popEv reg e => 0x8F#8 :: encE16 reg e
  | .nop => [0x90#8]
  | .xchgAX r => [opReg 0x90#8 r.code]
  | .cbw => [0x98#8]
  | .cwd => [0x99#8]
  | .callAp off sel => 0x9A#8 :: (wordBytes off ++ wordBytes sel)
  | .wait => [0x9B#8]
  | .pushf => [0x9C#8]
  | .popf => [0x9D#8]
  | .sahf => [0x9E#8]
  | .lahf => [0x9F#8]
  | .movALOb off => 0xA0#8 :: wordBytes off
  | .movAXOv off => 0xA1#8 :: wordBytes off
  | .movObAL off => 0xA2#8 :: wordBytes off
  | .movOvAX off => 0xA3#8 :: wordBytes off
  | .movsb => [0xA4#8]
  | .movsw => [0xA5#8]
  | .cmpsb => [0xA6#8]
  | .cmpsw => [0xA7#8]
  | .testALIb imm => [0xA8#8, imm]
  | .testAXIv imm => 0xA9#8 :: wordBytes imm
  | .stosb => [0xAA#8]
  | .stosw => [0xAB#8]
  | .lodsb => [0xAC#8]
  | .lodsw => [0xAD#8]
  | .scasb => [0xAE#8]
  | .scasw => [0xAF#8]
  | .movRegIb r imm => [opReg 0xB0#8 r.code, imm]
  | .movRegIv r imm => opReg 0xB8#8 r.code :: wordBytes imm
  | .retIw v n => v.pick 0xC2#8 0xC0#8 :: wordBytes n
  | .ret v => [v.pick 0xC3#8 0xC1#8]
  | .lesGvMp g e => 0xC4#8 :: encE16 g.code e
  | .ldsGvMp g e => 0xC5#8 :: encE16 g.code e
  | .movEbIb reg e imm => 0xC6#8 :: (encE8 reg e ++ [imm])
  | .movEvIv reg e imm => 0xC7#8 :: (encE16 reg e ++ wordBytes imm)
  | .retfIw v n => v.pick 0xCA#8 0xC8#8 :: wordBytes n
  | .retf v => [v.pick 0xCB#8 0xC9#8]
  | .int3 => [0xCC#8]
  | .intIb n => [0xCD#8, n]
  | .into => [0xCE#8]
  | .iret => [0xCF#8]
  | .rolEb c e => c.pick 0xD0#8 0xD2#8 :: encE8 0#3 e
  | .rorEb c e => c.pick 0xD0#8 0xD2#8 :: encE8 1#3 e
  | .rclEb c e => c.pick 0xD0#8 0xD2#8 :: encE8 2#3 e
  | .rcrEb c e => c.pick 0xD0#8 0xD2#8 :: encE8 3#3 e
  | .shlEb c e => c.pick 0xD0#8 0xD2#8 :: encE8 4#3 e
  | .shrEb c e => c.pick 0xD0#8 0xD2#8 :: encE8 5#3 e
  | .setmoEb e => 0xD0#8 :: encE8 6#3 e
  | .sarEb c e => c.pick 0xD0#8 0xD2#8 :: encE8 7#3 e
  | .rolEv c e => c.pick 0xD1#8 0xD3#8 :: encE16 0#3 e
  | .rorEv c e => c.pick 0xD1#8 0xD3#8 :: encE16 1#3 e
  | .rclEv c e => c.pick 0xD1#8 0xD3#8 :: encE16 2#3 e
  | .rcrEv c e => c.pick 0xD1#8 0xD3#8 :: encE16 3#3 e
  | .shlEv c e => c.pick 0xD1#8 0xD3#8 :: encE16 4#3 e
  | .shrEv c e => c.pick 0xD1#8 0xD3#8 :: encE16 5#3 e
  | .setmoEv e => 0xD1#8 :: encE16 6#3 e
  | .sarEv c e => c.pick 0xD1#8 0xD3#8 :: encE16 7#3 e
  | .setmocEb e => 0xD2#8 :: encE8 6#3 e
  | .setmocEv e => 0xD3#8 :: encE16 6#3 e
  | .aam n => [0xD4#8, n]
  | .aad n => [0xD5#8, n]
  | .salc => [0xD6#8]
  | .xlat => [0xD7#8]
  | .esc n e => opReg 0xD8#8 (n.extractLsb' 3 3) :: encE16 (n.extractLsb' 0 3) e
  | .loopneJb disp => [0xE0#8, disp]
  | .loopeJb disp => [0xE1#8, disp]
  | .loopJb disp => [0xE2#8, disp]
  | .jcxzJb disp => [0xE3#8, disp]
  | .inALIb port => [0xE4#8, port]
  | .inAXIb port => [0xE5#8, port]
  | .outIbAL port => [0xE6#8, port]
  | .outIbAX port => [0xE7#8, port]
  | .callJv disp => 0xE8#8 :: wordBytes disp
  | .jmpJv disp => 0xE9#8 :: wordBytes disp
  | .jmpAp off sel => 0xEA#8 :: (wordBytes off ++ wordBytes sel)
  | .jmpJb disp => [0xEB#8, disp]
  | .inALDX => [0xEC#8]
  | .inAXDX => [0xED#8]
  | .outDXAL => [0xEE#8]
  | .outDXAX => [0xEF#8]
  | .lock v => [v.pick 0xF0#8 0xF1#8]
  | .repne => [0xF2#8]
  | .rep => [0xF3#8]
  | .hlt => [0xF4#8]
  | .cmc => [0xF5#8]
  | .testEbIb v e imm => 0xF6#8 :: (encE8 (v.pick 0#3 1#3) e ++ [imm])
  | .notEb e => 0xF6#8 :: encE8 2#3 e
  | .negEb e => 0xF6#8 :: encE8 3#3 e
  | .mulEb e => 0xF6#8 :: encE8 4#3 e
  | .imulEb e => 0xF6#8 :: encE8 5#3 e
  | .divEb e => 0xF6#8 :: encE8 6#3 e
  | .idivEb e => 0xF6#8 :: encE8 7#3 e
  | .testEvIv v e imm => 0xF7#8 :: (encE16 (v.pick 0#3 1#3) e ++ wordBytes imm)
  | .notEv e => 0xF7#8 :: encE16 2#3 e
  | .negEv e => 0xF7#8 :: encE16 3#3 e
  | .mulEv e => 0xF7#8 :: encE16 4#3 e
  | .imulEv e => 0xF7#8 :: encE16 5#3 e
  | .divEv e => 0xF7#8 :: encE16 6#3 e
  | .idivEv e => 0xF7#8 :: encE16 7#3 e
  | .clc => [0xF8#8]
  | .stc => [0xF9#8]
  | .cli => [0xFA#8]
  | .sti => [0xFB#8]
  | .cld => [0xFC#8]
  | .std => [0xFD#8]
  | .incEb e => 0xFE#8 :: encE8 0#3 e
  | .decEb e => 0xFE#8 :: encE8 1#3 e
  | .fe2 e => 0xFE#8 :: encE8 2#3 e
  | .fe3 e => 0xFE#8 :: encE8 3#3 e
  | .fe4 e => 0xFE#8 :: encE8 4#3 e
  | .fe5 e => 0xFE#8 :: encE8 5#3 e
  | .fe6 e => 0xFE#8 :: encE8 6#3 e
  | .fe7 e => 0xFE#8 :: encE8 7#3 e
  | .incEv e => 0xFF#8 :: encE16 0#3 e
  | .decEv e => 0xFF#8 :: encE16 1#3 e
  | .callEv e => 0xFF#8 :: encE16 2#3 e
  | .callMp e => 0xFF#8 :: encE16 3#3 e
  | .jmpEv e => 0xFF#8 :: encE16 4#3 e
  | .jmpMp e => 0xFF#8 :: encE16 5#3 e
  | .pushEv v e => 0xFF#8 :: encE16 (v.pick 6#3 7#3) e

/-! ## What the host asks of the decoder -/

/-- `n` bytes of a number, the lowest first. -/
def bytesOfNat : Nat → Nat → List Byte
  | 0, _ => []
  | n + 1, w => BitVec.ofNat 8 w :: bytesOfNat n (w / 256)

/-- Whether an opcode byte is one of those the table splits by the reg field: 8C, 8E, the groups 80 to 83, 8F, C6, C7, D0 to D3, F6, F7, FE, FF (R155, R161). -/
def groupOpcode (op : Nat) : Bool :=
  [0x80, 0x81, 0x82, 0x83, 0x8C, 0x8E, 0x8F, 0xC6, 0xC7, 0xD0, 0xD1, 0xD2, 0xD3, 0xF6, 0xF7, 0xFE, 0xFF].contains op

/-- The stream bytes of an instruction given as a number, bits from `nbits` on being 0. The table's 16-bit rows are the group rows, numbered
`opcode << 8 | modrm` (R161): a 16-bit number whose high byte is a group opcode is laid out so, the opcode first. In any other number the first byte is
bits 7..0, the second bits 15..8, and so on (log 28). -/
def tableBytes (nbits w : Nat) : List Byte :=
  if nbits = 16 && groupOpcode (w % 2 ^ 16 / 256) then
    BitVec.ofNat 8 (w / 256) :: BitVec.ofNat 8 w :: bytesOfNat 4 0
  else bytesOfNat maxInstrBytes (w % 2 ^ nbits)

/-- The instruction `decode` reads from those bytes. -/
def decodeTableWord (nbits w : Nat) : Option Instr :=
  match decode (tableBytes nbits w) with
  | .ok i _ => some i
  | .reject _ => none

end Sys2Proof
end

