-- ==== Sys2Proof/Config.lean ====
section
/-!
DEFINITION. The implementation parameters of rule R9 and the free values. A parameter whose value can be written down is a field of `Params`, which
State carries, so that a statement about every state holds for every value of it. What cannot be written down (a draw, an uninterpreted table) is an
opaque constant with no body, of which nothing can be proved.
-/

namespace Sys2Proof

namespace Config

/-- Free value of one bit, drawn by the execution engine (R14 `draw()`; log 7). -/
opaque freeBit : Nat → Bool

/-- Free value of 16 bits, drawn by the execution engine (log 7). -/
opaque freeWord : Nat → BitVec 16

/-- Free natural number, drawn by the execution engine (log 7, log 12). -/
opaque freeNat : Nat → Nat

/-- Free byte delivered by a bus agent: a device read, the INTA vector, a DMA device's byte (R82, R97, R447; log 7). -/
opaque freeBusByte : Nat → BitVec 8

/-- Free choice of the fetch race: which of the values a code byte has had is decoded (R125; log 11). -/
opaque freeFetchPick : Nat → Nat

end Config

/-- Kind of a memory region of ADDR_MAP (R82). -/
inductive RegionKind where
  | ram
  | rom
  | mmio (dev : Nat)
  | none
  deriving DecidableEq, Repr

/-- Video adapter class, a construction-time toggle that acts only through WAITS and ADDR_MAP (R576; log 41). -/
inductive VideoClass where
  | monochrome | ega | vga
  deriving DecidableEq, Repr

/-- Whether validator mode is compiled and enabled, a construction-time toggle (R576). -/
inductive ValidatorMode where
  | notCompiled | disabled | enabled
  deriving DecidableEq, Repr

/-- One row of ADDR_MAP for memory: addresses `base .. base + size - 1`, their kind and timing class (R82); with a video class, a region that only that
adapter puts there (R576). -/
structure Region where
  base : Nat
  size : Nat
  kind : RegionKind
  timing : Nat
  video : Option VideoClass
  deriving DecidableEq, Repr

/-- Kind of a port range of ADDR_MAP (R82). -/
inductive PortKind where
  | io (dev : Nat)
  | none
  deriving DecidableEq, Repr

/-- One row of ADDR_MAP for I/O ports (R82). -/
structure PortRange where
  base : Nat
  size : Nat
  kind : PortKind
  timing : Nat
  deriving DecidableEq, Repr

/-- OPEN_BUS_MODE (R83). -/
inductive OpenBusMode where
  | const (v : Byte)
  | lastBusValue
  deriving DecidableEq, Repr

/-- UNDEF_FLAGS (R38). -/
inductive UndefFlags where
  | draw
  | silicon
  deriving DecidableEq, Repr

/-- UNDOC_MODE (R410). -/
inductive UndocMode where
  | refuse
  | silicon
  deriving DecidableEq, Repr

/-- STEP_IN_REP (R9, R463). -/
inductive StepInRep where
  | perIteration
  | perInstruction
  deriving DecidableEq, Repr

/-- DE_DEST (R9, R265): a draw for each destination register, or two fixed values for AX and DX. -/
inductive DeDest where
  | draw
  | fixed (ax dx : Word)
  deriving DecidableEq, Repr

/-- Space of a bus cycle (R41). -/
inductive Space where
  | memory | io | inta | halt
  deriving DecidableEq, Repr

/-- Direction of a bus cycle (R41). -/
inductive Dir where
  | read | write
  deriving DecidableEq, Repr

/-- The four kinds of requester (R89); the rank of a kind in ARB_ORDER is its place in the list (R90). -/
inductive ReqKind where
  | fetch | operand | dma | refresh
  deriving DecidableEq, Repr

/-- The requester that owns a bus cycle (R41, R89). -/
inductive Requester where
  | fetch
  | operand
  | dma (ch : Nat)
  | refresh
  deriving DecidableEq, Repr

/-- A DMA stub's request: its direction and address (R97). -/
structure DmaReq where
  dir : Dir
  addr : PAddr
  deriving DecidableEq, Repr

/-- What a completed bus cycle hands to its requester: the data byte, and the AddressFault bit (R93, R95, R99). -/
structure Delivery where
  data : Byte
  addrFault : Bool
  deriving DecidableEq, Repr, Inhabited

/-- What the scheduler has last handed to a DMA device: its channel and the delivery (R93, R95). -/
structure DmaDelivery where
  ch : Nat
  delivery : Delivery
  deriving DecidableEq, Repr, Inhabited

/-- DeviceTimingModel (R42): the stubs' DMA request lines by channel, the acknowledged channels, their refresh request with its address, the interrupt request
output and the INTA vector of the interrupt controller stub (R473), the last delivery to a DMA device, device counters. -/
structure DevTm where
  dreq : List (Option DmaReq)
  dack : List Nat
  rfq : Option PAddr
  intr : Bool
  vector : Option Byte
  delivered : Option DmaDelivery
  counters : List Nat
  deriving DecidableEq, Repr, Inhabited

namespace Machine

/-- Boundary events (R460, R461). -/
inductive Event where
  | nmi | intr | trap
  deriving DecidableEq, Repr

/-- What every phase but Idle carries (R41), with the AddressFault output (R95). -/
structure Cycle where
  addr : PAddr
  data : Byte
  dir : Dir
  space : Space
  req : Requester
  waitsLeft : Nat
  addrFault : Bool
  deriving DecidableEq, Repr

/-- BusCycleState: a tagged variant (R41). -/
inductive Bus where
  | idle
  | t1 (c : Cycle)
  | t2 (c : Cycle)
  | t3 (c : Cycle)
  | tw (c : Cycle)
  | t4 (c : Cycle)
  deriving DecidableEq, Repr

end Machine

/-- What TIMING gives a schedule to (R500): an instruction, by its bytes from the opcode on and its repeat prefix, or the entry sequence of an event, each event
having its own. -/
inductive TimedForm where
  | instr (bytes : List Byte) (rep : Option Rep)
  | entry (ev : Machine.Event)
  deriving DecidableEq, Repr

namespace Config

/-- WAITS as an uninterpreted function of the video adapter class, the device timing model, space, address, direction and requester (R88, R576; log 22). -/
opaque waits : VideoClass → DevTm → Space → PAddr → Dir → Requester → Nat

/-- DEVTM_STEP, uninterpreted: from the device timing model and the whole bus cycle state (R93, R96; log 22). -/
opaque devtmStep : DevTm → Machine.Bus → DevTm

/-- TIMING as an uninterpreted function: of the form and its count (of a shift, or of iterations begun), the internal micro-steps before access `i`, or, for the
number of accesses, after the last (R500; log 22). -/
opaque timing : TimedForm → Nat → Nat → Nat

/-- The frame checksum, uninterpreted (R543; log 27). -/
opaque checksum : Byte → Nat → List Byte → List Byte

/-- The software side's value of a further control signal of CTRL_SIGNALS, from the bus cycle state after the tick, uninterpreted (R548; log 27). -/
opaque ctrlSignal : String → Machine.Bus → Nat

end Config

/-- One row of a WAITS table: cycles of this space and timing class, under this video adapter class if one is named, get this many Tw states (R88, R576;
log 22). -/
structure WaitRow where
  video : Option VideoClass
  space : Space
  timing : Nat
  waits : Nat
  deriving DecidableEq, Repr

/-- WAITS (R88): a table, zero where it has no row, or the uninterpreted function. -/
inductive Waits where
  | table (rows : List WaitRow)
  | free
  deriving DecidableEq, Repr

/-- DEVTM_STEP (R96): unchanged but for the host's inputs, or the uninterpreted function. -/
inductive DevStep where
  | hold
  | free
  deriving DecidableEq, Repr

/-- The mod and r/m class of a ModR/M operand, for TIMING (R500). -/
inductive OperandMode where
  | register
  | memory (mod : BitVec 2) (rm : BitVec 3)
  deriving DecidableEq, Repr

/-- A schedule of a TIMING table (R500): `lead` internal micro-steps first, `gaps` before the later accesses (used again for each iteration of a repeated string
instruction), `tail` after the last, and `perCount` more for each unit of a shift's count or iteration of a repeated string instruction. -/
structure Schedule where
  lead : Nat
  gaps : List Nat
  tail : Nat
  perCount : Nat
  deriving DecidableEq, Repr

/-- The schedule without internal micro-steps (R500). -/
def Schedule.minimal : Schedule := ⟨0, [], 0, 0⟩

/-- One row of a TIMING table (R500): the schedule of instructions with this opcode and, where named, this reg field, this mod and r/m class, and this presence
of a repeat prefix. -/
structure TimingRow where
  opcode : Byte
  reg : Option (BitVec 3)
  mode : Option OperandMode
  repeated : Option Bool
  schedule : Schedule
  deriving DecidableEq, Repr

/-- The schedules of the entry sequences of the boundary events (R500). -/
structure EntrySchedules where
  nmi : Schedule
  intr : Schedule
  trap : Schedule
  deriving DecidableEq, Repr

/-- TIMING (R500): a table, minimal for an instruction without a row, with the schedules of the entries, or the uninterpreted function (log 22). -/
inductive Timing where
  | table (rows : List TimingRow) (entries : EntrySchedules)
  | free
  deriving DecidableEq, Repr

/-- One row of BRANCH_PENALTY (R501): extra internal micro-steps of the taken and the not-taken conditional transfer with this opcode. -/
structure BranchPenalty where
  opcode : Byte
  taken : Nat
  notTaken : Nat
  deriving DecidableEq, Repr

/-- The validator's commands (R545). -/
inductive Cmd where
  | reset | step | readBusState | writeMemory
  deriving DecidableEq, Repr

/-- CMD_CODE (R545): a byte value for each command. -/
structure CmdCodes where
  reset : Byte
  step : Byte
  readBusState : Byte
  writeMemory : Byte
  deriving DecidableEq, Repr

/-- STATUS_CODE (R544): the two status values that must be told apart. -/
structure StatusCodes where
  ok : Byte
  error : Byte
  deriving DecidableEq, Repr

/-- The validator's protocol parameters (R9, R542-R545, R551); `ctrlSignals` are the names CTRL_SIGNALS adds to phase, dir, space and lock (R548). -/
structure ValidatorParams where
  maxAttempts : Nat
  tAck : Nat
  baud : Nat
  cmdCode : CmdCodes
  statusCode : StatusCodes
  lenW : Nat
  lenLittleEndian : Bool
  ctrlSignals : List String
  deriving DecidableEq, Repr

/-- Every parameter of R9 that a model carries as data. -/
structure Params where
  /-- ADDR_MAP for memory: the first region that holds an address decides; an address in none is unmapped (R82, R83). -/
  addrMap : List Region
  /-- ADDR_MAP for ports (R82). -/
  portMap : List PortRange
  /-- Timing class of an address or port in no row of ADDR_MAP (R83). -/
  unmappedTiming : Nat
  openBus : OpenBusMode
  undefFlags : UndefFlags
  undocMode : UndocMode
  deDest : DeDest
  stepAfterInt : Bool
  stepInRep : StepInRep
  stiShadow : Bool
  lockBlocksDma : Bool
  /-- ESC_READS: for each coprocessor operation number, the offsets from `ea` read, in order (R399; log 21). -/
  escReads : List (Nat × List Word)
  /-- Q_CAP (R9). -/
  qCap : Nat
  /-- FETCH_POLICY `free >= n` (R9, R113). -/
  fetchFree : Nat
  /-- ARB_ORDER, the highest rank first (R90). -/
  arbOrder : List ReqKind
  waits : Waits
  devStep : DevStep
  /-- DEVTM_RESET (R59). -/
  devReset : DevTm
  timing : Timing
  oddWordPenalty : Nat
  /-- BRANCH_PENALTY, 0 for an opcode without a row (R501). -/
  branchPenalty : List BranchPenalty
  video : VideoClass
  validatorMode : ValidatorMode
  validator : ValidatorParams
  deriving DecidableEq, Repr

/-- The constraints the spec puts on parameters: MAX_ATTEMPTS >= 3 (R551), CMD_CODE injective (R545), STATUS_CODE tells ok from error (R544). -/
def Params.ok (p : Params) : Bool :=
  decide (3 ≤ p.validator.maxAttempts)
    && decide ([p.validator.cmdCode.reset, p.validator.cmdCode.step, p.validator.cmdCode.readBusState, p.validator.cmdCode.writeMemory].Nodup)
    && p.validator.statusCode.ok != p.validator.statusCode.error

end Sys2Proof
end

