-- ==== Sys2Proof/Machine/Defaults.lean ====
section
/-!
DEFINITION. The parameter values `State.reset` carries (R9).
-/

namespace Sys2Proof

/-- The configuration `State.reset` carries: the spec's defaults where R9 gives one, UNDOC_MODE = refuse among them (log 6), and a named choice where it leaves
the parameter OPEN (log 5). -/
def Params.atReset : Params where
  addrMap := [⟨0, 0x100000, .ram, 0, none⟩]
  portMap := [⟨0, 0x10000, .io 0, 0⟩]
  unmappedTiming := 0
  openBus := .const 0xFF#8
  undefFlags := .draw
  undocMode := .refuse
  deDest := .draw
  stepAfterInt := false
  stepInRep := .perInstruction
  stiShadow := true
  lockBlocksDma := true
  escReads := []
  qCap := 4
  fetchFree := 1
  arbOrder := [.refresh, .dma, .fetch, .operand]
  waits := .free
  devStep := .free
  devReset := ⟨[], [], none, false, none, none, []⟩
  timing := .free
  oddWordPenalty := 0
  branchPenalty := []
  video := .monochrome
  validatorMode := .enabled
  validator := ⟨3, 1, 9600, ⟨1#8, 2#8, 3#8, 4#8⟩, ⟨0#8, 1#8⟩, 1, true, []⟩

end Sys2Proof
end

