-- ==== Sys2Proof/Machine/State.lean ====
section
/-!
DEFINITION. The state of the 8088 core, its bus interface, its execution engine, the emulation driver and the validator session (R20, R40-R45, R541,
R572), as plain data; the reasons a step can stop; and the state after reset (R50-R59, R490). One State serves both levels of R8: `step` (instruction
level) and `tick` (cycle level) act on it (log 1, log 2).
-/

namespace Sys2Proof.Machine

/-! ## Reasons to stop -/

/-- Model faults (R14). -/
inductive Fault where
  /-- Raised by the cycle level when a byte is pushed to a full prefetch queue (R107): a scheduler bug, which R113 rules out. Safe. -/
  | queueOverrun
  /-- Raised by `step` if the fetch window held no whole instruction; it always does (R153), so this never happens. Safe. -/
  | fetchWindow
  deriving DecidableEq, Repr

/-- Refusals: the spec gives the instruction no meaning (R14). -/
inductive Refusal where
  /-- The instruction has no meaning yet; raised in exec's arms only. Safe. -/
  | notModelled (mnemonic : String)
  /-- An undocumented encoding under UNDOC_MODE = refuse (R410). Raised by the meanings of R411-R424. Safe. -/
  | undocumentedEncoding
  /-- FE /2 to /7 under UNDOC_MODE = silicon; refused in both modes, as an undocumented encoding under refuse (R410, R421). Safe. -/
  | feGroup
  /-- A register operand where LEA, LDS, LES, CALL Mp or JMP Mp needs memory, under UNDOC_MODE = silicon; refused in both modes (R410, R423). Safe. -/
  | registerOperand
  /-- REP or REPNE before IMUL or IDIV under UNDOC_MODE = silicon; refused in both modes (R410, R424). Safe. -/
  | repBeforeImulIdiv
  deriving DecidableEq, Repr

/-! ## Registers -/

/-- The eight general registers (R21). -/
structure Regs where
  ax : Word
  cx : Word
  dx : Word
  bx : Word
  sp : Word
  bp : Word
  si : Word
  di : Word
  deriving DecidableEq, Repr

/-- The four segment registers (R24). -/
structure Segs where
  es : Word
  cs : Word
  ss : Word
  ds : Word
  deriving DecidableEq, Repr

/-- The flags (R26). -/
inductive Flag where
  | cf | pf | af | zf | sf | tf | intf | df | ovf
  deriving DecidableEq, Repr

/-- Prefix latch (R44). -/
structure Pfx where
  seg : Option SReg
  rep : Option Rep
  lock : Bool
  start : Option Word
  last : Option Word
  deriving DecidableEq, Repr

/-- Interrupt-related hidden state and inputs (R45), with the level of the NMI input last sampled (R465), the reset input, and the byte the interrupt
controller would return (R447). -/
structure Intr where
  nmiLatch : Bool
  nmiLevel : Bool
  intrLine : Bool
  shadow : Bool
  stiDelay : Bool
  trapPending : Bool
  halted : Bool
  testPin : Bool
  resetLine : Bool
  intaVector : Option Byte
  deriving DecidableEq, Repr

/-- What the boundary after the instruction in progress must know of it (log 32): nothing, that it entered an interrupt of its own (INT, INT3, INTO, divide
error: R461 "I entered no interrupt"), or that a reset abandoned it (R490). -/
inductive Entered where
  | none | internal | abandoned
  deriving DecidableEq, Repr

/-- A boundary event that has been recognised and is entered next, with the offset to save (R461, R496). -/
structure PendingEntry where
  event : Event
  sip : Word
  deriving DecidableEq, Repr

/-! ## Bus interface unit -/

/-- PrefetchQueue (R40): a circular buffer of `buf.length` bytes with an explicit count. -/
structure Queue where
  buf : List Byte
  head : Nat
  tail : Nat
  len : Nat
  deriving DecidableEq, Repr

/-- The queue and the fetch pointer (R40), with the AddressFault bit the last completed code fetch delivered (R95). -/
structure Biu where
  queue : Queue
  pfp : Word
  fetchInflight : Bool
  fetchDiscard : Bool
  fetchFault : Bool
  deriving DecidableEq, Repr

/-- A recorded device access (R84), in the order of its commit; an access with AddressFault is recorded too (R95; log 13). -/
structure BusEvent where
  space : Space
  dir : Dir
  addr : PAddr
  data : Byte
  addrFault : Bool
  deriving DecidableEq, Repr

/-- A code byte that a store has changed after it may have been fetched: its offset, its physical address, and its value before the store (R125; log 11). -/
structure StaleByte where
  offset : Nat
  addr : Nat
  old : Byte
  deriving DecidableEq, Repr

/-- The next instruction bytes after POP CS or MOV CS still come from the old CS this many times (R414; log 12). -/
structure FetchRace where
  oldCs : Word
  left : Nat
  deriving DecidableEq, Repr

/-! ## Execution engine -/

/-- One byte access of an instruction, as the engine asks the bus for it (R99). -/
structure Access where
  space : Space
  dir : Dir
  addr : PAddr
  data : Byte
  deriving DecidableEq, Repr

/-- What an instruction run against the bus may wait for: a byte access, or the decision at a recognition point inside a repeated string instruction
(R463). -/
inductive PortReq where
  | access (a : Access)
  | poll
  deriving DecidableEq, Repr

/-- The decision at such a recognition point: go on, stop for a reset, or take an event. -/
inductive Poll where
  | go | stop
  | take (ev : Event)
  deriving DecidableEq, Repr

/-- An answer the bus or the recognition logic has given. -/
inductive Answer where
  | byte (d : Delivery)
  | poll (p : Poll)
  deriving DecidableEq, Repr

/-- The part of the machine an instruction's micro-steps write: registers and flags, and the count of free values drawn (R47, R498). -/
structure Arch where
  regs : Regs
  segs : Segs
  ip : Word
  flags : Word
  draws : Nat
  deriving DecidableEq, Repr

/-- The access port (log 2). With `replay` false an access acts on memory and ports at once (instruction level). With `replay` true it consumes the next
answer; `pending` is the first access that has none, and `saved` is what the instruction has written before it (cycle level). `oddWords` and `branch` are what
the penalties of R501 depend on. -/
structure Port where
  replay : Bool
  answers : List Answer
  pending : Option PortReq
  saved : Option Arch
  oddWords : Nat
  branch : Option Bool
  deriving DecidableEq, Repr

/-- eng.phase (R43, R495). -/
inductive EngPhase where
  | fetching
  | decoding
  | executing (k : Nat)
  | complete
  deriving DecidableEq, Repr

/-- What is being executed: an instruction, the entry sequence of a boundary event with its saved IP (R495), or the repeating micro-step of HLT. -/
inductive EngOp where
  | none
  | instr (i : Instr)
  | entry (ev : Event) (sip : Word)
  | halt
  deriving DecidableEq, Repr

/-- Execution-engine state (R43): the phase and step index, the operation, the bytes taken for it from the opcode on, the registers and flags it started from
(log 2), the answers its accesses have had, the internal micro-steps done since the last access, the outstanding operand request (R99) and what came back for it
(R95, R99), the number of INTA cycles run (R451). -/
structure Engine where
  phase : EngPhase
  op : EngOp
  bytes : List Byte
  stalled : Bool
  start : Option Arch
  answers : List Answer
  gap : Nat
  request : Option Access
  granted : Bool
  reply : Option Delivery
  inta : Nat
  deriving DecidableEq, Repr

/-! ## Host inputs, validator, driver -/

/-- The request lines the host drives: DMA by channel, and refresh (R571, R576; log 38). -/
structure HostLines where
  dma : List (Option DmaReq)
  refresh : Option PAddr
  deriving DecidableEq, Repr

/-- The host's inputs at one recognition point or tick (R576). -/
structure HostInput where
  reset : Bool
  nmi : Bool
  intr : Bool
  test : Bool
  inta : Option Byte
  dma : List (Option DmaReq)
  refresh : Option PAddr
  deriving DecidableEq, Repr

/-- Names of the bus phases, as the validator compares them (R548). -/
inductive PhaseName where
  | idle | t1 | t2 | t3 | tw | t4
  deriving DecidableEq, Repr

/-- The control signals of a snapshot: phase, dir, space, lock, and the further names of CTRL_SIGNALS (R548). -/
structure Ctrl where
  phase : PhaseName
  dir : Option Dir
  space : Option Space
  lock : Bool
  extra : List (String × Nat)
  deriving DecidableEq, Repr

/-- BusSnapshot (R548). -/
structure Snapshot where
  addr : Option PAddr
  data : Option Byte
  ctrl : Ctrl
  deriving DecidableEq, Repr

/-- Category of a mismatch (R548, R549). -/
inductive Category where
  | address
  | data
  | control (name : String)
  deriving DecidableEq, Repr

/-- DivergenceRecord (R549). -/
structure DivergenceRecord where
  index : Nat
  expected : Snapshot
  observed : Snapshot
  classification : List Category
  deriving DecidableEq, Repr

/-- What one exchange on the serial link brings back (R542, R544): a response with a status byte and, for a read, a snapshot; or a failure; or the caller's
abort while the call blocked (R553). The layout of the snapshot's bytes is OPEN, so it stands here decoded (log 27). -/
inductive Reply where
  | response (status : Byte) (snapshot : Option Snapshot)
  | timeout
  | malformed
  | badChecksum
  | abort
  deriving DecidableEq, Repr

/-- How a transport operation without a response ends (R542), or the caller's abort while it blocked (R553). -/
inductive LinkResult where
  | ok
  | timeout
  | abort
  deriving DecidableEq, Repr

/-- A serial link (R542): what the reference hardware and the line will do, in order: the outcomes of `send`, what `receive` gets, the outcomes of `reset`, and
whether firmware brings the hardware forward after a reset (R551); `sent` records the frames sent (log 27). -/
structure Link where
  sends : List LinkResult
  replies : List Reply
  resets : List LinkResult
  resyncs : List Bool
  sent : List (List Byte)
  deriving DecidableEq, Repr

/-- The transport (R542): the null transport (R556), or a serial link. -/
inductive Transport where
  | null
  | serial (link : Link)
  deriving DecidableEq, Repr

/-- Session status (R541, D52). -/
inductive SessionStatus where
  | opened | degraded | paused | closed | aborted
  deriving DecidableEq, Repr

/-- ValidatorSession (R541). The checkpoint is the tick count of the last instruction boundary both sides reached (R551). -/
structure Session where
  conn : Transport
  seq : Nat
  lastHw : Option Snapshot
  log : List DivergenceRecord
  status : SessionStatus
  pausedFrom : SessionStatus
  checkpoint : Nat
  deriving DecidableEq, Repr

/-- Result of the tick's comparison (R547, R573). -/
inductive Validation where
  | off
  | matched
  | diverged (r : DivergenceRecord)
  | fatal
  | aborted
  deriving DecidableEq, Repr

/-- Status of the core in a StepOutcome (R573). -/
inductive Status where
  | running
  | halted
  | waiting
  | refused (r : Refusal)
  | fault (f : Fault)
  deriving DecidableEq, Repr

/-- The driver's counters and the last tick's outcome (R572, R573). After a session ends its log passes to the caller (R552, R554). -/
structure Driver where
  cycles : Nat
  instructions : Nat
  status : Status
  validation : Validation
  handedLog : List DivergenceRecord
  deriving DecidableEq, Repr

/-! ## The whole state -/

/-- The machine (R20): architectural state, bus interface, engine, driver, validator, the host's inputs and the parameters. -/
structure State where
  regs : Regs
  segs : Segs
  ip : Word
  flags : Word
  pfx : Pfx
  intr : Intr
  /-- WAIT has started and TEST was not asserted (R398; log 32). -/
  waiting : Bool
  entered : Entered
  /-- The recognised event that is entered next (R461, R496; log 1). -/
  entry : Option PendingEntry
  /-- Memory: bytes other than 00h, addresses strictly rising (R71; log 4). -/
  mem : List Host.Cell
  events : List BusEvent
  /-- Instruction level: code bytes whose queued copy may predate a store (R125; log 11). -/
  stale : List StaleByte
  fetchRace : Option FetchRace
  biu : Biu
  bus : Bus
  /-- Data of the last completed bus cycle (R83). -/
  lastBus : Byte
  devtm : DevTm
  hostLines : HostLines
  eng : Engine
  port : Port
  /-- Free values the execution engine has drawn (log 7). -/
  draws : Nat
  /-- Free values bus agents have delivered (log 7). -/
  busDraws : Nat
  /-- The host's inputs still to come, one for each recognition point (step) or tick (tick) (R576; log 16). -/
  inputs : List HostInput
  driver : Driver
  session : Option Session
  cfg : Params
  deriving DecidableEq, Repr

/-- What a meaning answers. -/
abbrev Res := Host.Outcome State Fault Refusal

/-! ## Reset values -/

/-- The clear prefix latch (R57). -/
def Pfx.clear : Pfx := ⟨none, none, false, none, none⟩

/-- An empty queue of the given capacity (R55; log 35). -/
def Queue.empty (cap : Nat) : Queue := ⟨List.replicate cap 0#8, 0, 0, 0⟩

/-- The port of the instruction level: accesses act at once (log 2). -/
def Port.direct : Port := ⟨false, [], none, none, 0, none⟩

/-- The engine after reset: Fetching, step index 0, not stalled (R57). -/
def Engine.atReset : Engine := ⟨.fetching, .none, [], false, none, [], 0, none, false, none, 0⟩

/-- The reset values of R50-R59 for a core with parameters `p`, memory `m` and general registers `r`; everything the spec resets, and the model's own
bookkeeping cleared. -/
def State.initial (p : Params) (m : List Host.Cell) (r : Regs) : State where
  regs := r
  segs := ⟨0#16, 0xFFFF#16, 0#16, 0#16⟩
  ip := 0#16
  flags := 0xF002#16
  pfx := Pfx.clear
  intr := ⟨false, false, false, false, false, false, false, false, false, none⟩
  waiting := false
  entered := .none
  entry := none
  mem := m
  events := []
  stale := []
  fetchRace := none
  biu := ⟨Queue.empty p.qCap, 0#16, false, false, false⟩
  bus := .idle
  lastBus := 0#8
  devtm := p.devReset
  hostLines := ⟨[], none⟩
  eng := Engine.atReset
  port := Port.direct
  draws := 0
  busDraws := 0
  inputs := []
  driver := ⟨0, 0, .running, .off, []⟩
  session := none
  cfg := p

/-- The machine right after reset: R50-R59 and R490, no memory byte listed, the general registers at 0000h where the spec gives no value (DESIGN CHOICE,
log 3), the configuration of log 5 and log 6. -/
def State.reset : State := State.initial Params.atReset [] ⟨0#16, 0#16, 0#16, 0#16, 0#16, 0#16, 0#16, 0#16⟩

end Sys2Proof.Machine
end

