-- ==== Sys2Proof/Machine/Ops.lean ====
section
/-!
DEFINITION. The named operations over registers, flags, memory and ports (R11-R14, R21-R27, R70-R84), free values, the prefetch flush (R109), taking an
interrupt (R450) and returning from one (R373). Every meaning is written over these.
-/

namespace Sys2Proof

/-- The word register a byte register is a half of (R22). -/
def Reg8.word : Reg8 → Reg16
  | .al | .ah => .ax
  | .cl | .ch => .cx
  | .dl | .dh => .dx
  | .bl | .bh => .bx

/-- Whether a byte register is the high half (R22). -/
def Reg8.high : Reg8 → Bool
  | .al | .cl | .dl | .bl => false
  | .ah | .ch | .dh | .bh => true

/-! ## The address map (R82, R83, R95) -/

/-- Whether a row of a table holds under the video adapter class of the configuration (R576; log 41). -/
def Params.fitted (p : Params) (v : Option VideoClass) : Bool := v.isNone || v == some p.video

/-- The row of ADDR_MAP that holds a memory address (R82). -/
def Params.region (p : Params) (a : PAddr) : Option Region :=
  p.addrMap.find? fun r => p.fitted r.video && decide (r.base ≤ a.toNat) && decide (a.toNat < r.base + r.size)

/-- Kind of a memory address; one outside every region is unmapped (R82, R83). -/
def Params.memKind (p : Params) (a : PAddr) : RegionKind :=
  match p.region a with
  | some r => r.kind
  | none => .none

/-- The row of ADDR_MAP that holds a port (R82). -/
def Params.portRow (p : Params) (a : PAddr) : Option PortRange :=
  p.portMap.find? fun r => decide (r.base ≤ a.toNat) && decide (a.toNat < r.base + r.size)

/-- Kind of a port (R82). -/
def Params.portKind (p : Params) (a : PAddr) : PortKind :=
  match p.portRow a with
  | some r => r.kind
  | none => .none

/-- AddressFault: the access is to an unmapped address or port (R83, R95). INTA and halt cycles address nothing (R100). -/
def Params.addrFault (p : Params) (sp : Space) (a : PAddr) : Bool :=
  match sp with
  | .memory => p.memKind a == .none
  | .io => p.portKind a == .none
  | .inta => false
  | .halt => false

/-- Whether an access is recorded as an event: device accesses (R84), and accesses with AddressFault (log 13). -/
def Params.isEvent (p : Params) (sp : Space) (a : PAddr) : Bool :=
  match sp with
  | .memory =>
    match p.memKind a with
    | .ram => false
    | .rom => false
    | .mmio _ => true
    | .none => true
  | .io => true
  | .inta => false
  | .halt => false

end Sys2Proof

namespace Sys2Proof.Machine

/-! ## Memory as a list of cells (R71; log 4) -/

/-- What an address that the list does not hold reads as (log 4). -/
def Memory.unlisted : Byte := 0#8

/-- The byte at an address. -/
def Memory.read : List Host.Cell → Nat → Byte
  | [], _ => Memory.unlisted
  | (k, v) :: rest, a => if k = a then v else Memory.read rest a

/-- Put a byte at an address, keeping the canonical form. -/
def Memory.write : List Host.Cell → Nat → Byte → List Host.Cell
  | [], a, v => if v = Memory.unlisted then [] else [(a, v)]
  | (k, w) :: rest, a, v =>
    if a < k then (if v = Memory.unlisted then (k, w) :: rest else (a, v) :: (k, w) :: rest)
    else if a = k then (if v = Memory.unlisted then rest else (a, v) :: rest)
    else (k, w) :: Memory.write rest a v

/-- Canonical form from `lo` on: addresses strictly rising and below 2^20, no byte equal to the unlisted one. -/
def Memory.wfFrom : Nat → List Host.Cell → Bool
  | _, [] => true
  | lo, (k, v) :: rest => decide (lo ≤ k) && decide (k < 0x100000) && v != Memory.unlisted && Memory.wfFrom (k + 1) rest

/-- The canonical form of memory. -/
def Memory.wf (m : List Host.Cell) : Bool := Memory.wfFrom 0 m

/-! ## Registers (R21, R22, R24) -/

/-- `x16[r]`. -/
def Regs.get (g : Regs) : Reg16 → Word
  | .ax => g.ax | .cx => g.cx | .dx => g.dx | .bx => g.bx | .sp => g.sp | .bp => g.bp | .si => g.si | .di => g.di

/-- `x16[r] <- v`. -/
def Regs.set (g : Regs) (r : Reg16) (v : Word) : Regs :=
  match r with
  | .ax => { g with ax := v }
  | .cx => { g with cx := v }
  | .dx => { g with dx := v }
  | .bx => { g with bx := v }
  | .sp => { g with sp := v }
  | .bp => { g with bp := v }
  | .si => { g with si := v }
  | .di => { g with di := v }

/-- `sreg[r]`. -/
def Segs.get (g : Segs) : SReg → Word
  | .es => g.es | .cs => g.cs | .ss => g.ss | .ds => g.ds

/-- `sreg[r] <- v`. -/
def Segs.set (g : Segs) (r : SReg) (v : Word) : Segs :=
  match r with
  | .es => { g with es := v }
  | .cs => { g with cs := v }
  | .ss => { g with ss := v }
  | .ds => { g with ds := v }

/-- Bits 7:0 of a word. -/
def lowByte (w : Word) : Byte := w.extractLsb' 0 8

/-- Bits 15:8 of a word. -/
def highByte (w : Word) : Byte := w.extractLsb' 8 8

/-- Word register `r`. -/
def State.reg16 (s : State) (r : Reg16) : Word := s.regs.get r

/-- Write word register `r`. -/
def State.setReg16 (s : State) (r : Reg16) (v : Word) : State := { s with regs := s.regs.set r v }

/-- Byte register `r`: its half of the word register (R22). -/
def State.reg8 (s : State) (r : Reg8) : Byte :=
  if r.high then highByte (s.reg16 r.word) else lowByte (s.reg16 r.word)

/-- Write byte register `r`; the other half of the word register keeps its value (R22). -/
def State.setReg8 (s : State) (r : Reg8) (v : Byte) : State :=
  s.setReg16 r.word (if r.high then v ++ lowByte (s.reg16 r.word) else highByte (s.reg16 r.word) ++ v)

/-- Segment register `r`. -/
def State.seg (s : State) (r : SReg) : Word := s.segs.get r

/-- Write segment register `r`. -/
def State.setSeg (s : State) (r : SReg) (v : Word) : State := { s with segs := s.segs.set r v }

/-! ## Flags (R26, R27) -/

/-- Bit position of a flag (R26). -/
def Flag.bit : Flag → Nat
  | .cf => 0 | .pf => 2 | .af => 4 | .zf => 6 | .sf => 7 | .tf => 8 | .intf => 9 | .df => 10 | .ovf => 11

/-- The hardwired view of a flags word: bits 15-12 and 1 read 1, bits 5 and 3 read 0 (R27). -/
def flagsImage (w : Word) : Word := (w &&& 0x0FD5#16) ||| 0xF002#16

/-- A word with bit `n` given the value `b`. -/
def putBit (w : Word) (n : Nat) (b : Bool) : Word :=
  if b then w ||| (1#16 <<< n) else w &&& ~~~(1#16 <<< n)

/-- `FLAGS.f`. -/
def State.flag (s : State) (f : Flag) : Bool := s.flags.getLsbD f.bit

/-- `FLAGS.f <- b`. -/
def State.setFlag (s : State) (f : Flag) (b : Bool) : State := { s with flags := putBit s.flags f.bit b }

/-- The whole FLAGS register as it is read (R27). -/
def State.flagsWord (s : State) : Word := flagsImage s.flags

/-- `FLAGS <- v`: only the nine live bits are written (R27). -/
def State.setFlags (s : State) (v : Word) : State := { s with flags := flagsImage v }

/-! ## Free values (R14 `draw()`; log 7) -/

/-- A fresh free bit of the execution engine. -/
def State.drawBit (s : State) : Bool × State := (Config.freeBit s.draws, { s with draws := s.draws + 1 })

/-- A fresh free word of the execution engine. -/
def State.drawWord (s : State) : Word × State := (Config.freeWord s.draws, { s with draws := s.draws + 1 })

/-- A fresh free number of the execution engine. -/
def State.drawNat (s : State) : Nat × State := (Config.freeNat s.draws, { s with draws := s.draws + 1 })

/-- A fresh free byte delivered by a bus agent. -/
def State.drawBusByte (s : State) : Byte × State :=
  (Config.freeBusByte s.busDraws, { s with busDraws := s.busDraws + 1 })

/-! ## What an instruction writes as it goes (R47, R498; log 2) -/

/-- The registers, flags and draw count of the machine. -/
def State.arch (s : State) : Arch := ⟨s.regs, s.segs, s.ip, s.flags, s.draws⟩

/-- The machine with these registers, flags and draw count. -/
def State.withArch (s : State) (a : Arch) : State := { s with regs := a.regs, segs := a.segs, ip := a.ip, flags := a.flags, draws := a.draws }

/-! ## Addresses (R11, R72) -/

/-- `phys(s, o) = (s * 16 + o) mod 2^20` (R11, R72). -/
def phys (s o : Word) : PAddr := s.setWidth 20 * 16#20 + o.setWidth 20

/-- An I/O port as a bus address: zero-extended to 20 bits (R41). -/
def portAddr (p : Word) : PAddr := p.setWidth 20

/-! ## One byte on the bus (R82-R84, R13) -/

/-- Record a device access, in order (R84). -/
def State.record (s : State) (sp : Space) (d : Dir) (a : PAddr) (v : Byte) : State :=
  if s.cfg.isEvent sp a then { s with events := s.events ++ [⟨sp, d, a, v, s.cfg.addrFault sp a⟩] } else s

/-- The open-bus value (R83): the constant, or the last bus value, which the cycle level knows (`known`) and the instruction level does not (log 14). -/
def State.openBusByte (known : Bool) (s : State) : Byte × State :=
  match s.cfg.openBus with
  | .const v => (v, s)
  | .lastBusValue => if known then (s.lastBus, s) else s.drawBusByte

/-- The byte a read cycle gets: memory of `ram` and `rom`, a free byte from a device, the open-bus value where nothing answers, the interrupt type in an
INTA cycle: the host's, else the interrupt controller stub's, else a free one (R82, R83, R447, R473; log 13, log 15, log 38). -/
def State.readValue (known : Bool) (s : State) (sp : Space) (a : PAddr) : Byte × State :=
  match sp with
  | .memory =>
    match s.cfg.memKind a with
    | .ram => (Memory.read s.mem a.toNat, s)
    | .rom => (Memory.read s.mem a.toNat, s)
    | .mmio _ => s.drawBusByte
    | .none => s.openBusByte known
  | .io =>
    match s.cfg.portKind a with
    | .io _ => s.drawBusByte
    | .none => s.openBusByte known
  | .inta =>
    match s.intr.intaVector.or s.devtm.vector with
    | some v => (v, s)
    | none => s.drawBusByte
  | .halt => (0#8, s)

/-- The segment the `k`-th byte from IP on is fetched from: CS, or the old CS while the race of POP CS and MOV CS lasts (R414; log 12). -/
def State.fetchSeg (s : State) (k : Nat) : Word :=
  match s.fetchRace with
  | some r => if k < r.left then r.oldCs else s.segs.cs
  | none => s.segs.cs

/-- Physical address of the `k`-th byte from IP on; the offset wraps inside the segment (R74, R163). -/
def State.fetchAddr (s : State) (k : Nat) : PAddr := phys (s.fetchSeg k) (s.ip + BitVec.ofNat 16 k)

/-- Note the code bytes a store to RAM at `a` may have missed: those within Q_CAP of the next instruction keep their old value as a candidate
(R125, R504, R510; log 11). A store elsewhere changes no code byte. -/
def State.noteStale (s : State) (a : PAddr) : State :=
  let missed := ((List.range s.cfg.qCap).filter fun k => s.fetchAddr k == a).map fun k =>
    ⟨(s.ip + BitVec.ofNat 16 k).toNat, a.toNat, Memory.read s.mem a.toNat⟩
  { s with stale := if s.cfg.memKind a = .ram then s.stale ++ missed else s.stale }

/-- Store a byte: `ram` changes; `rom`, devices, ports and unmapped addresses do not (R82, R83). -/
def State.storeValue (s : State) (sp : Space) (a : PAddr) (v : Byte) : State :=
  match sp with
  | .memory =>
    match s.cfg.memKind a with
    | .ram => { s with mem := Memory.write s.mem a.toNat v }
    | .rom => s
    | .mmio _ => s
    | .none => s
  | .io => s
  | .inta => s
  | .halt => s

/-- A read that acts at once (instruction level). -/
def State.directRead (s : State) (sp : Space) (a : PAddr) : Byte × State :=
  let r := s.readValue false sp a
  (r.1, r.2.record sp .read a r.1)

/-- A write that acts at once (instruction level). -/
def State.directWrite (s : State) (sp : Space) (a : PAddr) (v : Byte) : State :=
  let s1 := if sp == .memory then s.noteStale a else s
  (s1.storeValue sp a v).record sp .write a v

/-- Take the next answer for a request at the cycle level, or leave the request pending, with what has been written before it (log 2). -/
def State.portTake (s : State) (q : PortReq) : Option Answer × State :=
  match s.port.pending with
  | some _ => (none, s)
  | none =>
    match s.port.answers with
    | ans :: rest => (some ans, { s with port := { s.port with answers := rest } })
    | [] => (none, { s with port := { s.port with pending := some q, saved := some s.arch } })

/-- One byte read by the instruction (R13 `MemRead(a, 1)`, `IoRdB`): at once, or through the port. -/
def State.busRead (s : State) (sp : Space) (a : PAddr) : Byte × State :=
  if s.port.replay then
    match s.portTake (.access ⟨sp, .read, a, 0#8⟩) with
    | (some (.byte d), s1) => (d.data, s1)
    | (_, s1) => (0#8, s1)
  else s.directRead sp a

/-- One byte written by the instruction (R13 `MemWrite(a, 1, v)`, `IoWrB`): at once, or through the port. -/
def State.busWrite (s : State) (sp : Space) (a : PAddr) (v : Byte) : State :=
  if s.port.replay then (s.portTake (.access ⟨sp, .write, a, v⟩)).2 else s.directWrite sp a v

/-- Count a word access of memory at an odd offset, for ODD_WORD_PENALTY (R501); the instruction level has no timing. The model charges every such access, so a
word that is read and then written twice, and a push or a pop too, but no access to a port: R501 says operand, its quoted source access (log 23). -/
def State.noteOdd (s : State) (o : Word) : State :=
  if s.port.replay && o.getLsbD 0 then { s with port := { s.port with oddWords := s.port.oddWords + 1 } } else s

/-- Note whether a conditional transfer is taken, for BRANCH_PENALTY (R501); the instruction level has no timing. -/
def State.noteBranch (s : State) (taken : Bool) : State :=
  if s.port.replay then { s with port := { s.port with branch := some taken } } else s

/-! ## Memory and I/O primitives (R13); `seg` is a segment value -/

/-- `RdB(s, o)`. -/
def State.rdB (s : State) (seg o : Word) : Byte × State := s.busRead .memory (phys seg o)

/-- `RdW(s, o)`: the low byte first, the offset wrapping inside the segment (R13, R74). -/
def State.rdW (s : State) (seg o : Word) : Word × State :=
  let lo := (s.noteOdd o).rdB seg o
  let hi := lo.2.rdB seg (o + 1)
  (hi.1 ++ lo.1, hi.2)

/-- `WrB(s, o, v)`. -/
def State.wrB (s : State) (seg o : Word) (v : Byte) : State := s.busWrite .memory (phys seg o) v

/-- `WrW(s, o, v)`: the low byte first, the offset wrapping inside the segment (R13, R74). -/
def State.wrW (s : State) (seg o v : Word) : State :=
  ((s.noteOdd o).wrB seg o (lowByte v)).wrB seg (o + 1) (highByte v)

/-- `IoRdB(p)`. -/
def State.ioRdB (s : State) (p : Word) : Byte × State := s.busRead .io (portAddr p)

/-- `IoRdW(p)`: the low byte first, the port wrapping. -/
def State.ioRdW (s : State) (p : Word) : Word × State :=
  let lo := s.ioRdB p
  let hi := lo.2.ioRdB (p + 1)
  (hi.1 ++ lo.1, hi.2)

/-- `IoWrB(p, v)`. -/
def State.ioWrB (s : State) (p : Word) (v : Byte) : State := s.busWrite .io (portAddr p) v

/-- `IoWrW(p, v)`: the low byte first, the port wrapping. -/
def State.ioWrW (s : State) (p v : Word) : State := (s.ioWrB p (lowByte v)).ioWrB (p + 1) (highByte v)

/-- `Push(v)`: SP decreases by 2, then the word is written at SS:SP (R13). -/
def State.push (s : State) (v : Word) : State :=
  let sp := s.reg16 .sp - 2
  (s.setReg16 .sp sp).wrW (s.seg .ss) sp v

/-- `Pop()`: the word at SS:SP is read, then SP increases by 2 (R13). -/
def State.pop (s : State) : Word × State :=
  let r := s.rdW (s.seg .ss) (s.reg16 .sp)
  (r.1, r.2.setReg16 .sp (s.reg16 .sp + 2))

/-! ## Redirecting control (R109, R115, R350) -/

/-- `flush()`: the queue is emptied, the fetch pointer is the new IP, the byte of a fetch in flight will be dropped, and every earlier store is visible
to the next fetch (R109, R115, R125). -/
def State.flush (s : State) : State :=
  { s with
    biu := { s.biu with queue := { s.biu.queue with head := 0, tail := 0, len := 0 }, pfp := s.ip, fetchDiscard := s.biu.fetchInflight }
    stale := []
    fetchRace := none }

/-- `IP <- t`; flush (R350). -/
def State.jump (s : State) (t : Word) : State := { s with ip := t }.flush

/-- `IP <- t; CS <- c`; flush (R350, R353). -/
def State.farJump (s : State) (c t : Word) : State := ({ s with ip := t }.setSeg .cs c).flush

/-! ## Taking an interrupt and returning from one (R450, R451, R373) -/

/-- `raise Interrupt(n)` with saved offset `sip` (R450): FLAGS as they stand, CS and `sip` are pushed, IF and TF cleared, IP and then CS read from the vector at
`0000h:4n` (R449), the queue flushed, and a halt ended. -/
def State.raise (s : State) (n : Byte) (sip : Word) : State :=
  let s1 := s.push s.flagsWord
  let s2 := (s1.setFlag .intf false).setFlag .tf false
  let s3 := s2.push (s2.seg .cs)
  let s4 := s3.push sip
  let v := n.setWidth 16 * 4
  let o := s4.rdW 0#16 v
  let c := { o.2 with ip := o.1 }.rdW 0#16 (v + 2)
  let s5 := (c.2.setSeg .cs c.1).flush
  { s5 with intr := { s5.intr with halted := false } }

/-- An interrupt an instruction enters by itself: INT, INT3, a taken INTO, a divide error (R441, R444-R446). Saved IP: the offset after the instruction. -/
def State.raiseInternal (s : State) (n : Byte) : State := { s.raise n s.ip with entered := .internal }

/-- The acknowledge sequence of INTR: two INTA cycles, the second returning the type (R451, R100). -/
def State.inta (s : State) : Byte × State := (s.busRead .inta 0#20).2.busRead .inta 0#20

/-- An event is recognised: NMI's latch is cleared (R443, R461). -/
def State.acceptEvent (s : State) (ev : Event) : State :=
  match ev with
  | .nmi => { s with intr := { s.intr with nmiLatch := false } }
  | .intr => s
  | .trap => s

/-- Enter a boundary event with saved offset `sip` (R443, R447, R442): NMI is type 2, INTR has the type of its INTA sequence, the trap is type 1. -/
def State.enterEvent (s : State) (ev : Event) (sip : Word) : State :=
  match ev with
  | .nmi => s.raise 2#8 sip
  | .intr =>
    let v := s.inta
    v.2.raise v.1 sip
  | .trap => s.raise 1#8 sip

/-- `IP <- Pop(); CS <- Pop()`, each written after its own pop (R362, R363, R373); the caller flushes. -/
def State.popFarTarget (s : State) : State :=
  let i := s.pop
  let c := { i.2 with ip := i.1 }.pop
  c.2.setSeg .cs c.1

/-- The return from an interrupt (R373): IP, CS and FLAGS are popped in that order, FLAGS through the mask of R27; flush. -/
def State.iret (s : State) : State :=
  let f := s.popFarTarget.pop
  (f.2.setFlags f.1).flush

/-! ## Reset (R490) -/

/-- No NMI latch, shadow, STI delay, trap or halt (R58); the input lines keep their levels. -/
def Intr.clearLatches (i : Intr) : Intr :=
  { i with nmiLatch := false, shadow := false, stiDelay := false, trapPending := false, halted := false }

/-- Reset: every register, flag, latch and bus field of R50-R59 at its reset value, the general registers free values (R54), the counters 0 (R572).
Memory, recorded device accesses, the host's inputs and the session are unchanged. -/
def State.applyReset (s : State) : State :=
  let n := s.draws
  let g : Regs := ⟨Config.freeWord n, Config.freeWord (n + 1), Config.freeWord (n + 2), Config.freeWord (n + 3), Config.freeWord (n + 4),
    Config.freeWord (n + 5), Config.freeWord (n + 6), Config.freeWord (n + 7)⟩
  let r := State.initial s.cfg s.mem g
  { r with
    intr := s.intr.clearLatches
    events := s.events
    lastBus := s.lastBus
    draws := n + 8
    busDraws := s.busDraws
    hostLines := s.hostLines
    inputs := s.inputs
    driver := { r.driver with validation := s.driver.validation, handedLog := s.driver.handedLog }
    session := s.session }

/-! ## Undocumented encodings (R410) -/

/-- An undocumented encoding: its silicon meaning, or a refusal before any effect, as UNDOC_MODE says (R410). -/
def undocumented (s : State) (r : Res) : Res :=
  match s.cfg.undocMode with
  | .refuse => .refused .undocumentedEncoding
  | .silicon => r

/-- A form whose second encoding is undocumented (R411, R412, R419, R422). -/
def documentedMain (v : Enc) (s : State) (r : Res) : Res :=
  match v with
  | .main => r
  | .second => undocumented s r

/-- A form whose reg field is ignored and undocumented unless 0 (R417, R418). -/
def documentedZero (reg : BitVec 3) (s : State) (r : Res) : Res :=
  if reg = 0#3 then r else undocumented s r

end Sys2Proof.Machine
end

