-- ==== Sys2Proof/Machine/Flags.lean ====
section
/-!
DEFINITION. Every flag computation: the result flags (R249), addition and subtraction (R250, R251), logic (R300), undefined flags (R38), conditions
(R365), and the one-bit steps and the OF rule of shifts and rotates (R306-R314).
-/

namespace Sys2Proof.Machine

/-- `parity8(v)`: an even number of 1 bits (R11, R29). -/
def parity8 (v : Byte) : Bool :=
  !(v.getLsbD 0 ^^ v.getLsbD 1 ^^ v.getLsbD 2 ^^ v.getLsbD 3 ^^ v.getLsbD 4 ^^ v.getLsbD 5 ^^ v.getLsbD 6 ^^ v.getLsbD 7)

/-- `SZP(r, N)` (R249). -/
def State.szp {w : Nat} (s : State) (r : BitVec w) : State :=
  ((s.setFlag .sf r.msb).setFlag .zf (r == 0#w)).setFlag .pf (parity8 (r.setWidth 8))

/-- A flag the manual leaves undefined: a free bit, or the silicon value where UNDEF_FLAGS asks for it and the rule gives one (R38; log 8). -/
def State.undefFlag (s : State) (f : Flag) (silicon : Option Bool) : State :=
  match s.cfg.undefFlags, silicon with
  | .silicon, some b => s.setFlag f b
  | .silicon, none =>
    let r := s.drawBit
    r.2.setFlag f r.1
  | .draw, _ =>
    let r := s.drawBit
    r.2.setFlag f r.1

/-- Several undefined flags without silicon values, in order, each an independent free bit (R38). -/
def State.undefList (s : State) (fs : List Flag) : State := fs.foldl (fun t f => t.undefFlag f none) s

/-! ## Addition and subtraction (R250-R252) -/

/-- The sum of `AddFlags(a, b, c, N)`, modulo 2^N. -/
def addResult {w : Nat} (a b : BitVec w) (c : Bool) : BitVec w := BitVec.ofNat w (a.toNat + b.toNat + c.toNat)

/-- `AddFlags(a, b, c, N)` (R250). -/
def State.addFlags {w : Nat} (s : State) (a b : BitVec w) (c : Bool) : BitVec w × State :=
  let r := addResult a b c
  let s1 := s.setFlag .cf (decide (2 ^ w ≤ a.toNat + b.toNat + c.toNat))
  let s2 := s1.setFlag .af ((a ^^^ b ^^^ r).getLsbD 4)
  let s3 := s2.setFlag .ovf ((a ^^^ r) &&& (b ^^^ r)).msb
  (r, s3.szp r)

/-- The difference of `SubFlags(a, b, c, N)`, modulo 2^N. -/
def subResult {w : Nat} (a b : BitVec w) (c : Bool) : BitVec w := BitVec.ofInt w ((a.toNat : Int) - b.toNat - c.toNat)

/-- `SubFlags(a, b, c, N)` (R251). -/
def State.subFlags {w : Nat} (s : State) (a b : BitVec w) (c : Bool) : BitVec w × State :=
  let r := subResult a b c
  let s1 := s.setFlag .cf (decide (a.toNat < b.toNat + c.toNat))
  let s2 := s1.setFlag .af ((a ^^^ b ^^^ r).getLsbD 4)
  let s3 := s2.setFlag .ovf ((a ^^^ b) &&& (a ^^^ r)).msb
  (r, s3.szp r)

/-- A helper's flags with the CF of before (R252). -/
def State.keepCf (s : State) (t : State) : State := t.setFlag .cf (s.flag .cf)

/-- `LogicFlags(r, N)`: CF and OF cleared, SZP, AF undefined (R300). -/
def State.logicFlags {w : Nat} (s : State) (r : BitVec w) : State :=
  (((s.setFlag .cf false).setFlag .ovf false).szp r).undefFlag .af none

/-! ## Conditions (R365), one for each even code -/

/-- O: OF = 1. -/
def State.condO (s : State) : Bool := s.flag .ovf
/-- B: CF = 1. -/
def State.condB (s : State) : Bool := s.flag .cf
/-- Z: ZF = 1. -/
def State.condZ (s : State) : Bool := s.flag .zf
/-- BE: CF = 1 or ZF = 1. -/
def State.condBE (s : State) : Bool := s.flag .cf || s.flag .zf
/-- S: SF = 1. -/
def State.condS (s : State) : Bool := s.flag .sf
/-- P: PF = 1. -/
def State.condP (s : State) : Bool := s.flag .pf
/-- L: SF differs from OF. -/
def State.condL (s : State) : Bool := s.flag .sf != s.flag .ovf
/-- LE: ZF = 1 or SF differs from OF. -/
def State.condLE (s : State) : Bool := s.flag .zf || s.flag .sf != s.flag .ovf

/-! ## Shifts and rotates (R306-R314) -/

/-- The operations of the shift group (R306). -/
inductive ShiftOp where
  | rol | ror | rcl | rcr | shl | shr | sar
  deriving DecidableEq, Repr

/-- The operand and CF during a shift. -/
structure ShiftVal (w : Nat) where
  v : BitVec w
  cf : Bool
  deriving DecidableEq, Repr

/-- One-bit step of a shift or rotate on the operand and CF (R307-R313). -/
def shiftStep {w : Nat} (op : ShiftOp) (x : ShiftVal w) : ShiftVal w :=
  let top (b : Bool) : BitVec w := if b then BitVec.twoPow w (w - 1) else 0#w
  let low (b : Bool) : BitVec w := if b then 1#w else 0#w
  match op with
  | .rol => ⟨(x.v <<< 1) ||| low x.v.msb, x.v.msb⟩
  | .ror => ⟨(x.v >>> 1) ||| top (x.v.getLsbD 0), x.v.getLsbD 0⟩
  | .rcl => ⟨(x.v <<< 1) ||| low x.cf, x.v.msb⟩
  | .rcr => ⟨(x.v >>> 1) ||| top x.cf, x.v.getLsbD 0⟩
  | .shl => ⟨x.v <<< 1, x.v.msb⟩
  | .shr => ⟨x.v >>> 1, x.v.getLsbD 0⟩
  | .sar => ⟨(x.v >>> 1) ||| top x.v.msb, x.v.getLsbD 0⟩

/-- `n` one-bit steps (R306). -/
def shiftSteps {w : Nat} (op : ShiftOp) : Nat → ShiftVal w → ShiftVal w
  | 0, x => x
  | n + 1, x => shiftSteps op n (shiftStep op x)

/-- OF after a one-bit step from `x` (R314). -/
def shiftOf {w : Nat} (op : ShiftOp) (x : ShiftVal w) : Bool :=
  let y := shiftStep op x
  match op with
  | .rol => y.v.msb ^^ y.cf
  | .ror => y.v.msb ^^ y.v.getLsbD (w - 2)
  | .rcl => y.v.msb ^^ y.cf
  | .rcr => y.v.msb ^^ y.v.getLsbD (w - 2)
  | .shl => y.v.msb ^^ y.cf
  | .shr => x.v.msb
  | .sar => false

/-- Whether the operation sets SF, ZF and PF and leaves AF undefined (R311-R313); the rotates leave the four unchanged (R307-R310). -/
def ShiftOp.isShift (op : ShiftOp) : Bool :=
  match op with
  | .rol => false
  | .ror => false
  | .rcl => false
  | .rcr => false
  | .shl => true
  | .shr => true
  | .sar => true

/-- A shift or rotate by `n`: nothing is written for n = 0; OF is the rule's for n = 1 and undefined for more, where silicon has the value of the last
one-bit step (R306, R314). -/
def shiftBy {w : Nat} (op : ShiftOp) (n : Nat) (v : BitVec w) (s : State) : Option (BitVec w) × State :=
  match n with
  | 0 => (none, s)
  | m + 1 =>
    let x := shiftSteps op m ⟨v, s.flag .cf⟩
    let y := shiftStep op x
    let s1 := s.setFlag .cf y.cf
    let s2 := if m = 0 then s1.setFlag .ovf (shiftOf op x) else s1.undefFlag .ovf (some (shiftOf op x))
    (some y.v, if op.isShift then (s2.szp y.v).undefFlag .af none else s2)

/-- The count of a shift: 1, or all eight bits of CL (R306). -/
def State.shiftCount (s : State) (c : Count) : Nat :=
  match c with
  | .one => 1
  | .cl => (s.reg8 .cl).toNat

end Sys2Proof.Machine
end

