-- ==== Sys2Proof/Machine/Operands.lean ====
section
/-!
DEFINITION. Operand forms: effective addresses and segments (R151, R152, R73), the E operand resolved once to a location and read or written at width 8
or 16 (R146, R150), and the shapes in which instructions combine operands (R248).
-/

namespace Sys2Proof.Machine

/-! ## Effective address and segment (R151, R152) -/

/-- Sum of an effective address's base and index registers (R151). -/
def State.eaBase (s : State) (b : EaBase) : Word :=
  match b with
  | .bxsi => s.reg16 .bx + s.reg16 .si
  | .bxdi => s.reg16 .bx + s.reg16 .di
  | .bpsi => s.reg16 .bp + s.reg16 .si
  | .bpdi => s.reg16 .bp + s.reg16 .di
  | .si => s.reg16 .si
  | .di => s.reg16 .di
  | .bp => s.reg16 .bp
  | .bx => s.reg16 .bx

/-- Whether the EA uses BP as its base (R152). -/
def usesBp (b : EaBase) : Bool :=
  match b with
  | .bpsi => true
  | .bpdi => true
  | .bp => true
  | .bxsi => false
  | .bxdi => false
  | .si => false
  | .di => false
  | .bx => false

/-- The offset `ea`, modulo 2^16 (R151); a byte displacement is sign-extended (R148). -/
def State.eaOffset (s : State) (ea : Ea) : Word :=
  match ea with
  | .nodisp b => s.eaBase b
  | .disp8 b d => s.eaBase b + d.signExtend 16
  | .disp16 b d => s.eaBase b + d
  | .direct d => d

/-- Default segment of a memory operand: SS when BP is the base, else DS (R152). -/
def defaultSeg (ea : Ea) : SReg :=
  match ea with
  | .nodisp b => if usesBp b then .ss else .ds
  | .disp8 b _ => if usesBp b then .ss else .ds
  | .disp16 b _ => if usesBp b then .ss else .ds
  | .direct _ => .ds

/-- Value of the segment register a memory operand uses: the override if there is one, else the default (R73, R152, R401). -/
def State.operandSeg (s : State) (d : SReg) : Word := s.seg (s.pfx.seg.getD d)

/-- A resolved E operand: a register, or a segment value and an offset. -/
inductive Loc (R : Type) where
  | reg (r : R)
  | mem (seg off : Word)
  deriving DecidableEq, Repr

/-- Resolve E, once for each instruction (R150). -/
def State.locate {R : Type} (s : State) (e : Rm R) : Loc R :=
  match e with
  | .reg r => .reg r
  | .mem ea => .mem (s.operandSeg (defaultSeg ea)) (s.eaOffset ea)

/-! ## Reading and writing E (R146, R150) -/

/-- `read(E)` at width 8. -/
def State.read8 (s : State) (l : Loc Reg8) : Byte × State :=
  match l with
  | .reg r => (s.reg8 r, s)
  | .mem g o => s.rdB g o

/-- `write(E, v)` at width 8. -/
def State.write8 (s : State) (l : Loc Reg8) (v : Byte) : State :=
  match l with
  | .reg r => s.setReg8 r v
  | .mem g o => s.wrB g o v

/-- `read(E)` at width 16. -/
def State.read16 (s : State) (l : Loc Reg16) : Word × State :=
  match l with
  | .reg r => (s.reg16 r, s)
  | .mem g o => s.rdW g o

/-- `write(E, v)` at width 16. -/
def State.write16 (s : State) (l : Loc Reg16) (v : Word) : State :=
  match l with
  | .reg r => s.setReg16 r v
  | .mem g o => s.wrW g o v

/-! ## Shapes (R248) -/

/-- A two-operand operation at width `w`: from destination and source, the result to write (none for CMP and TEST) and the state with its flags. -/
abbrev Op2 (w : Nat) := BitVec w → BitVec w → State → Option (BitVec w) × State

/-- A one-operand operation at width `w`. -/
abbrev Op1 (w : Nat) := BitVec w → State → Option (BitVec w) × State

/-- Write a result, if there is one, to a byte E operand. -/
def State.write8? (s : State) (l : Loc Reg8) (v : Option Byte) : State :=
  match v with
  | some r => s.write8 l r
  | none => s

/-- Write a result, if there is one, to a word E operand. -/
def State.write16? (s : State) (l : Loc Reg16) (v : Option Word) : State :=
  match v with
  | some r => s.write16 l r
  | none => s

/-- `op E` at width 8: E is read, then written if the operation has a result. -/
def State.unary8 (s : State) (f : Op1 8) (e : Rm8) : State :=
  let l := s.locate e
  let d := s.read8 l
  let r := f d.1 d.2
  r.2.write8? l r.1

/-- `op E` at width 16. -/
def State.unary16 (s : State) (f : Op1 16) (e : Rm16) : State :=
  let l := s.locate e
  let d := s.read16 l
  let r := f d.1 d.2
  r.2.write16? l r.1

/-- `op E, src` at width 8. -/
def State.binary8 (s : State) (f : Op2 8) (e : Rm8) (src : Byte) : State := s.unary8 (fun d s1 => f d src s1) e

/-- `op E, src` at width 16. -/
def State.binary16 (s : State) (f : Op2 16) (e : Rm16) (src : Word) : State := s.unary16 (fun d s1 => f d src s1) e

/-- `op r, E` at width 8: the destination is a register. -/
def State.toReg8 (s : State) (f : Op2 8) (g : Reg8) (e : Rm8) : State :=
  let x := s.read8 (s.locate e)
  let r := f (x.2.reg8 g) x.1 x.2
  r.2.write8? (.reg g) r.1

/-- `op r, E` at width 16: the destination is a register. -/
def State.toReg16 (s : State) (f : Op2 16) (g : Reg16) (e : Rm16) : State :=
  let x := s.read16 (s.locate e)
  let r := f (x.2.reg16 g) x.1 x.2
  r.2.write16? (.reg g) r.1

/-- The far pointer at a memory operand: the offset word, then the segment word (R220, R355, R359). -/
def State.rdFar (s : State) (g o : Word) : Word × Word × State :=
  let a := s.rdW g o
  let c := a.2.rdW g (o + 2)
  (a.1, c.1, c.2)

/-- A form whose E operand must be memory: a register operand is an undocumented encoding, refused in both modes (R410, R423; log 34). -/
def memoryOnly (e : Rm16) (s : State) (k : Ea → Res) : Res :=
  match e with
  | .mem ea => k ea
  | .reg _ => undocumented s (.refused .registerOperand)

end Sys2Proof.Machine
end

