-- ==== Sys2Proof/Machine/Arithmetic.lean ====
section
/-!
DEFINITION. Arithmetic (41_arithmetic.md, R248-R274): ADD ADC SUB SBB CMP INC DEC NEG, MUL IMUL DIV IDIV with the divide error (R265, R441), the decimal
adjustments and the sign extensions. No rule here gives a silicon value for an undefined flag, so each is a free bit (R38).
-/

namespace Sys2Proof.Machine

/-! ## Operations on two operands and one (R253-R262) -/

/-- ADD: `AddFlags(dst, src, 0, N)` (R253). -/
def aluAdd {w : Nat} (d v : BitVec w) (s : State) : Option (BitVec w) × State :=
  let r := s.addFlags d v false
  (some r.1, r.2)

/-- ADC: `AddFlags(dst, src, CF, N)` (R254). -/
def aluAdc {w : Nat} (d v : BitVec w) (s : State) : Option (BitVec w) × State :=
  let r := s.addFlags d v (s.flag .cf)
  (some r.1, r.2)

/-- SUB: `SubFlags(dst, src, 0, N)` (R255). -/
def aluSub {w : Nat} (d v : BitVec w) (s : State) : Option (BitVec w) × State :=
  let r := s.subFlags d v false
  (some r.1, r.2)

/-- SBB: `SubFlags(dst, src, CF, N)` (R256). -/
def aluSbb {w : Nat} (d v : BitVec w) (s : State) : Option (BitVec w) × State :=
  let r := s.subFlags d v (s.flag .cf)
  (some r.1, r.2)

/-- CMP: the flags of SUB, nothing written (R257). -/
def aluCmp {w : Nat} (d v : BitVec w) (s : State) : Option (BitVec w) × State := (none, (s.subFlags d v false).2)

/-- INC: `AddFlags(v, 1, 0, N)` with CF kept (R252, R258, R259). -/
def aluInc {w : Nat} (v : BitVec w) (s : State) : Option (BitVec w) × State :=
  let r := s.addFlags v 1#w false
  (some r.1, s.keepCf r.2)

/-- DEC: `SubFlags(v, 1, 0, N)` with CF kept (R252, R260, R261). -/
def aluDec {w : Nat} (v : BitVec w) (s : State) : Option (BitVec w) × State :=
  let r := s.subFlags v 1#w false
  (some r.1, s.keepCf r.2)

/-- NEG: `SubFlags(0, v, 0, N)` (R262). -/
def aluNeg {w : Nat} (v : BitVec w) (s : State) : Option (BitVec w) × State :=
  let r := s.subFlags 0#w v false
  (some r.1, r.2)

/-! ## Multiply (R263, R264) -/

/-- The unsigned product AL * v (R263). -/
def mulProduct8 (a v : Byte) : Word := BitVec.ofNat 16 (a.toNat * v.toNat)

/-- CF and OF of MUL at width 8: AH is not 0 (R263). -/
def mulWide8 (p : Word) : Bool := highByte p != 0#8

/-- The unsigned product AX * v (R263). -/
def mulProduct16 (a v : Word) : BitVec 32 := BitVec.ofNat 32 (a.toNat * v.toNat)

/-- CF and OF of MUL at width 16: DX is not 0 (R263). -/
def mulWide16 (p : BitVec 32) : Bool := p.extractLsb' 16 16 != 0#16

/-- The signed product AL * v (R264). -/
def imulProduct8 (a v : Byte) : Word := BitVec.ofInt 16 (a.toInt * v.toInt)

/-- CF and OF of IMUL at width 8: AX is not the sign extension of AL (R264). -/
def imulWide8 (p : Word) : Bool := decide (p.toInt ≠ (lowByte p).toInt)

/-- The signed product AX * v (R264). -/
def imulProduct16 (a v : Word) : BitVec 32 := BitVec.ofInt 32 (a.toInt * v.toInt)

/-- CF and OF of IMUL at width 16: DX:AX is not the sign extension of AX (R264). -/
def imulWide16 (p : BitVec 32) : Bool := decide (p.toInt ≠ (p.extractLsb' 0 16).toInt)

/-- The flags of a multiplication: CF and OF as given, SF, ZF, AF and PF undefined (R263, R264). -/
def State.mulFlags (s : State) (wide : Bool) : State :=
  ((s.setFlag .cf wide).setFlag .ovf wide).undefList [.sf, .zf, .af, .pf]

/-- A byte multiplication: AX gets the product of AL and E (R263, R264). -/
def State.multiply8 (s : State) (product : Byte → Byte → Word) (wide : Word → Bool) (e : Rm8) : State :=
  let x := s.read8 (s.locate e)
  let p := product (x.2.reg8 .al) x.1
  (x.2.setReg16 .ax p).mulFlags (wide p)

/-- A word multiplication: DX:AX gets the product of AX and E (R263, R264). -/
def State.multiply16 (s : State) (product : Word → Word → BitVec 32) (wide : BitVec 32 → Bool) (e : Rm16) : State :=
  let x := s.read16 (s.locate e)
  let p := product (x.2.reg16 .ax) x.1
  ((x.2.setReg16 .ax (p.extractLsb' 0 16)).setReg16 .dx (p.extractLsb' 16 16)).mulFlags (wide p)

/-- IMUL and IDIV are refused under a repeat prefix, in both modes (R424). -/
def repRefused (s : State) (r : Res) : Res :=
  match s.pfx.rep with
  | some _ => undocumented s (.refused .repBeforeImulIdiv)
  | none => r

/-! ## Divide (R265, R266, R441) -/

/-- All status flags undefined (R265, R441). -/
def State.divFlags (s : State) : State := s.undefList [.ovf, .sf, .zf, .af, .pf, .cf]

/-- AX after a divide error, as DE_DEST says (R265; log 9). -/
def State.errorDestAx (s : State) : State :=
  match s.cfg.deDest with
  | .draw =>
    let v := s.drawWord
    v.2.setReg16 .ax v.1
  | .fixed ax _ => s.setReg16 .ax ax

/-- DX after a word divide error, as DE_DEST says (R265; log 9). -/
def State.errorDestDx (s : State) : State :=
  match s.cfg.deDest with
  | .draw =>
    let v := s.drawWord
    v.2.setReg16 .dx v.1
  | .fixed _ dx => s.setReg16 .dx dx

/-- `divide_error()` of a byte divide and of AAM: AX as DE_DEST says, the flags undefined, then type 0 (R265, R271, R441). -/
def State.divideError8 (s : State) : State := s.errorDestAx.divFlags.raiseInternal 0#8

/-- `divide_error()` of a word divide: AX and DX as DE_DEST says, the flags undefined, then type 0 (R265, R441). -/
def State.divideError16 (s : State) : State := s.errorDestAx.errorDestDx.divFlags.raiseInternal 0#8

/-- Quotient and remainder of an unsigned byte divide, or none on a divide error (R265). -/
def divQuotient8 (n : Word) (d : Byte) : Option (Byte × Byte) :=
  if d.toNat = 0 ∨ 2 ^ 8 ≤ n.toNat / d.toNat then none
  else some (BitVec.ofNat 8 (n.toNat / d.toNat), BitVec.ofNat 8 (n.toNat % d.toNat))

/-- Quotient and remainder of an unsigned word divide, or none on a divide error (R265). -/
def divQuotient16 (n : BitVec 32) (d : Word) : Option (Word × Word) :=
  if d.toNat = 0 ∨ 2 ^ 16 ≤ n.toNat / d.toNat then none
  else some (BitVec.ofNat 16 (n.toNat / d.toNat), BitVec.ofNat 16 (n.toNat % d.toNat))

/-- Quotient and remainder of a signed byte divide, truncated toward zero, or none on a divide error, -128 among them (R266). -/
def idivQuotient8 (n : Word) (d : Byte) : Option (Byte × Byte) :=
  let q := Int.tdiv n.toInt d.toInt
  if d.toInt = 0 ∨ 127 < q ∨ q < -127 then none
  else some (BitVec.ofInt 8 q, BitVec.ofInt 8 (Int.tmod n.toInt d.toInt))

/-- Quotient and remainder of a signed word divide, truncated toward zero, or none on a divide error, -32768 among them (R266). -/
def idivQuotient16 (n : BitVec 32) (d : Word) : Option (Word × Word) :=
  let q := Int.tdiv n.toInt d.toInt
  if d.toInt = 0 ∨ 32767 < q ∨ q < -32767 then none
  else some (BitVec.ofInt 16 q, BitVec.ofInt 16 (Int.tmod n.toInt d.toInt))

/-- A byte divide of AX by E: AL the quotient, AH the remainder, the flags undefined, or a divide error (R265, R266). -/
def State.divide8 (s : State) (quotient : Word → Byte → Option (Byte × Byte)) (e : Rm8) : State :=
  let x := s.read8 (s.locate e)
  match quotient (x.2.reg16 .ax) x.1 with
  | none => x.2.divideError8
  | some (q, m) => (x.2.setReg16 .ax (m ++ q)).divFlags

/-- A word divide of DX:AX by E: AX the quotient, DX the remainder, the flags undefined, or a divide error (R265, R266). -/
def State.divide16 (s : State) (quotient : BitVec 32 → Word → Option (Word × Word)) (e : Rm16) : State :=
  let x := s.read16 (s.locate e)
  match quotient (x.2.reg16 .dx ++ x.2.reg16 .ax) x.1 with
  | none => x.2.divideError16
  | some (q, m) => ((x.2.setReg16 .ax q).setReg16 .dx m).divFlags

/-! ## Decimal adjust (R267-R272) -/

/-- The test of AAA, AAS, DAA and DAS: the low digit of AL exceeds 9, or AF = 1 (R267-R270). -/
def State.adjustLow (s : State) : Bool := decide (9 < (s.reg8 .al &&& 0x0F#8).toNat) || s.flag .af

/-- AAA and AAS: adjust AL and AH if the test holds, then keep the low digit of AL; OF, SF, ZF and PF undefined (R267, R268). -/
def State.asciiAdjust (s : State) (fl fh : Byte → Byte) : State :=
  let c := s.adjustLow
  let al := if c then fl (s.reg8 .al) else s.reg8 .al
  let ah := if c then fh (s.reg8 .ah) else s.reg8 .ah
  (((s.setReg16 .ax (ah ++ (al &&& 0x0F#8))).setFlag .af c).setFlag .cf c).undefList [.ovf, .sf, .zf, .pf]

/-- The second test of DAA and DAS: the old AL exceeds 99h, or the old CF = 1 (R269, R270). -/
def State.adjustHigh (s : State) : Bool := decide (0x99 < (s.reg8 .al).toNat) || s.flag .cf

/-- DAA (R269; log 30): CF ends as the second test, which the first step's CF cannot change. OF is undefined. -/
def State.decimalAdd (s : State) : State :=
  let lo := s.adjustLow
  let hi := s.adjustHigh
  let a1 := if lo then s.reg8 .al + 6 else s.reg8 .al
  let a2 := if hi then a1 + 0x60 else a1
  ((((s.setReg8 .al a2).setFlag .af lo).setFlag .cf hi).szp a2).undefFlag .ovf none

/-- DAS (R270; log 30): CF is 1 if the second test holds, else the value of the first step. OF is undefined. -/
def State.decimalSub (s : State) : State :=
  let lo := s.adjustLow
  let hi := s.adjustHigh
  let c1 := lo && (s.flag .cf || decide ((s.reg8 .al).toNat < 6))
  let a1 := if lo then s.reg8 .al - 6 else s.reg8 .al
  let a2 := if hi then a1 - 0x60 else a1
  ((((s.setReg8 .al a2).setFlag .af lo).setFlag .cf (hi || c1)).szp a2).undefFlag .ovf none

/-- AAM: AH the quotient and AL the remainder of AL by the base, or a divide error for base 0; OF, AF and CF undefined (R271). -/
def State.asciiMul (s : State) (n : Byte) : State :=
  if n = 0#8 then s.divideError8
  else
    let al := s.reg8 .al
    let q := BitVec.ofNat 8 (al.toNat / n.toNat)
    let m := BitVec.ofNat 8 (al.toNat % n.toNat)
    ((s.setReg16 .ax (q ++ m)).szp m).undefList [.ovf, .af, .cf]

/-- AAD: AL the sum of AL and AH times the base, modulo 2^8, AH 0; OF, AF and CF undefined (R272). -/
def State.asciiDiv (s : State) (n : Byte) : State :=
  let r := BitVec.ofNat 8 ((s.reg8 .al).toNat + (s.reg8 .ah).toNat * n.toNat)
  ((s.setReg16 .ax (0#8 ++ r)).szp r).undefList [.ovf, .af, .cf]

/-! ## The meanings, one for each constructor -/

/-- 00 ADD Eb,Gb: R253. -/
def execAddEbGb (e : Rm8) (g : Reg8) (s : State) : Res := .next (s.binary8 aluAdd e (s.reg8 g))

/-- 01 ADD Ev,Gv: R253. -/
def execAddEvGv (e : Rm16) (g : Reg16) (s : State) : Res := .next (s.binary16 aluAdd e (s.reg16 g))

/-- 02 ADD Gb,Eb: R253. -/
def execAddGbEb (g : Reg8) (e : Rm8) (s : State) : Res := .next (s.toReg8 aluAdd g e)

/-- 03 ADD Gv,Ev: R253. -/
def execAddGvEv (g : Reg16) (e : Rm16) (s : State) : Res := .next (s.toReg16 aluAdd g e)

/-- 04 ADD AL,Ib: R253. -/
def execAddALIb (imm : Byte) (s : State) : Res := .next (s.binary8 aluAdd (.reg .al) imm)

/-- 05 ADD AX,Iv: R253. -/
def execAddAXIv (imm : Word) (s : State) : Res := .next (s.binary16 aluAdd (.reg .ax) imm)

/-- 10 ADC Eb,Gb: R254. -/
def execAdcEbGb (e : Rm8) (g : Reg8) (s : State) : Res := .next (s.binary8 aluAdc e (s.reg8 g))

/-- 11 ADC Ev,Gv: R254. -/
def execAdcEvGv (e : Rm16) (g : Reg16) (s : State) : Res := .next (s.binary16 aluAdc e (s.reg16 g))

/-- 12 ADC Gb,Eb: R254. -/
def execAdcGbEb (g : Reg8) (e : Rm8) (s : State) : Res := .next (s.toReg8 aluAdc g e)

/-- 13 ADC Gv,Ev: R254. -/
def execAdcGvEv (g : Reg16) (e : Rm16) (s : State) : Res := .next (s.toReg16 aluAdc g e)

/-- 14 ADC AL,Ib: R254. -/
def execAdcALIb (imm : Byte) (s : State) : Res := .next (s.binary8 aluAdc (.reg .al) imm)

/-- 15 ADC AX,Iv: R254. -/
def execAdcAXIv (imm : Word) (s : State) : Res := .next (s.binary16 aluAdc (.reg .ax) imm)

/-- 18 SBB Eb,Gb: R256. -/
def execSbbEbGb (e : Rm8) (g : Reg8) (s : State) : Res := .next (s.binary8 aluSbb e (s.reg8 g))

/-- 19 SBB Ev,Gv: R256. -/
def execSbbEvGv (e : Rm16) (g : Reg16) (s : State) : Res := .next (s.binary16 aluSbb e (s.reg16 g))

/-- 1A SBB Gb,Eb: R256. -/
def execSbbGbEb (g : Reg8) (e : Rm8) (s : State) : Res := .next (s.toReg8 aluSbb g e)

/-- 1B SBB Gv,Ev: R256. -/
def execSbbGvEv (g : Reg16) (e : Rm16) (s : State) : Res := .next (s.toReg16 aluSbb g e)

/-- 1C SBB AL,Ib: R256. -/
def execSbbALIb (imm : Byte) (s : State) : Res := .next (s.binary8 aluSbb (.reg .al) imm)

/-- 1D SBB AX,Iv: R256. -/
def execSbbAXIv (imm : Word) (s : State) : Res := .next (s.binary16 aluSbb (.reg .ax) imm)

/-- 27 DAA: R269. -/
def execDaa (s : State) : Res := .next s.decimalAdd

/-- 28 SUB Eb,Gb: R255. -/
def execSubEbGb (e : Rm8) (g : Reg8) (s : State) : Res := .next (s.binary8 aluSub e (s.reg8 g))

/-- 29 SUB Ev,Gv: R255. -/
def execSubEvGv (e : Rm16) (g : Reg16) (s : State) : Res := .next (s.binary16 aluSub e (s.reg16 g))

/-- 2A SUB Gb,Eb: R255. -/
def execSubGbEb (g : Reg8) (e : Rm8) (s : State) : Res := .next (s.toReg8 aluSub g e)

/-- 2B SUB Gv,Ev: R255. -/
def execSubGvEv (g : Reg16) (e : Rm16) (s : State) : Res := .next (s.toReg16 aluSub g e)

/-- 2C SUB AL,Ib: R255. -/
def execSubALIb (imm : Byte) (s : State) : Res := .next (s.binary8 aluSub (.reg .al) imm)

/-- 2D SUB AX,Iv: R255. -/
def execSubAXIv (imm : Word) (s : State) : Res := .next (s.binary16 aluSub (.reg .ax) imm)

/-- 2F DAS: R270. -/
def execDas (s : State) : Res := .next s.decimalSub

/-- 37 AAA: R267. -/
def execAaa (s : State) : Res := .next (s.asciiAdjust (fun al => al + 6) (fun ah => ah + 1))

/-- 38 CMP Eb,Gb: R257. -/
def execCmpEbGb (e : Rm8) (g : Reg8) (s : State) : Res := .next (s.binary8 aluCmp e (s.reg8 g))

/-- 39 CMP Ev,Gv: R257. -/
def execCmpEvGv (e : Rm16) (g : Reg16) (s : State) : Res := .next (s.binary16 aluCmp e (s.reg16 g))

/-- 3A CMP Gb,Eb: R257. -/
def execCmpGbEb (g : Reg8) (e : Rm8) (s : State) : Res := .next (s.toReg8 aluCmp g e)

/-- 3B CMP Gv,Ev: R257. -/
def execCmpGvEv (g : Reg16) (e : Rm16) (s : State) : Res := .next (s.toReg16 aluCmp g e)

/-- 3C CMP AL,Ib: R257. -/
def execCmpALIb (imm : Byte) (s : State) : Res := .next (s.binary8 aluCmp (.reg .al) imm)

/-- 3D CMP AX,Iv: R257. -/
def execCmpAXIv (imm : Word) (s : State) : Res := .next (s.binary16 aluCmp (.reg .ax) imm)

/-- 3F AAS: R268. -/
def execAas (s : State) : Res := .next (s.asciiAdjust (fun al => al - 6) (fun ah => ah - 1))

/-- 40+r INC r16: R258. -/
def execIncReg (r : Reg16) (s : State) : Res := .next (s.unary16 aluInc (.reg r))

/-- 48+r DEC r16: R260. -/
def execDecReg (r : Reg16) (s : State) : Res := .next (s.unary16 aluDec (.reg r))

/-- 80 /0 ADD Eb,Ib: R253; second: 82 /0: R248. -/
def execAddEbIb (_v : Enc) (e : Rm8) (imm : Byte) (s : State) : Res := .next (s.binary8 aluAdd e imm)

/-- 80 /2 ADC Eb,Ib: R254; second: 82 /2: R248. -/
def execAdcEbIb (_v : Enc) (e : Rm8) (imm : Byte) (s : State) : Res := .next (s.binary8 aluAdc e imm)

/-- 80 /3 SBB Eb,Ib: R256; second: 82 /3: R248. -/
def execSbbEbIb (_v : Enc) (e : Rm8) (imm : Byte) (s : State) : Res := .next (s.binary8 aluSbb e imm)

/-- 80 /5 SUB Eb,Ib: R255; second: 82 /5: R248. -/
def execSubEbIb (_v : Enc) (e : Rm8) (imm : Byte) (s : State) : Res := .next (s.binary8 aluSub e imm)

/-- 80 /7 CMP Eb,Ib: R257; second: 82 /7: R248. -/
def execCmpEbIb (_v : Enc) (e : Rm8) (imm : Byte) (s : State) : Res := .next (s.binary8 aluCmp e imm)

/-- 81 /0 ADD Ev,Iv: R253. -/
def execAddEvIv (e : Rm16) (imm : Word) (s : State) : Res := .next (s.binary16 aluAdd e imm)

/-- 81 /2 ADC Ev,Iv: R254. -/
def execAdcEvIv (e : Rm16) (imm : Word) (s : State) : Res := .next (s.binary16 aluAdc e imm)

/-- 81 /3 SBB Ev,Iv: R256. -/
def execSbbEvIv (e : Rm16) (imm : Word) (s : State) : Res := .next (s.binary16 aluSbb e imm)

/-- 81 /5 SUB Ev,Iv: R255. -/
def execSubEvIv (e : Rm16) (imm : Word) (s : State) : Res := .next (s.binary16 aluSub e imm)

/-- 81 /7 CMP Ev,Iv: R257. -/
def execCmpEvIv (e : Rm16) (imm : Word) (s : State) : Res := .next (s.binary16 aluCmp e imm)

/-- 83 /0 ADD Ev,Ib: R253. -/
def execAddEvIb (e : Rm16) (imm : Byte) (s : State) : Res := .next (s.binary16 aluAdd e (imm.signExtend 16))

/-- 83 /2 ADC Ev,Ib: R254. -/
def execAdcEvIb (e : Rm16) (imm : Byte) (s : State) : Res := .next (s.binary16 aluAdc e (imm.signExtend 16))

/-- 83 /3 SBB Ev,Ib: R256. -/
def execSbbEvIb (e : Rm16) (imm : Byte) (s : State) : Res := .next (s.binary16 aluSbb e (imm.signExtend 16))

/-- 83 /5 SUB Ev,Ib: R255. -/
def execSubEvIb (e : Rm16) (imm : Byte) (s : State) : Res := .next (s.binary16 aluSub e (imm.signExtend 16))

/-- 83 /7 CMP Ev,Ib: R257. -/
def execCmpEvIb (e : Rm16) (imm : Byte) (s : State) : Res := .next (s.binary16 aluCmp e (imm.signExtend 16))

/-- 98 CBW: R273. -/
def execCbw (s : State) : Res := .next (s.setReg16 .ax ((s.reg8 .al).signExtend 16))

/-- 99 CWD: R274. -/
def execCwd (s : State) : Res := .next (s.setReg16 .dx (if (s.reg16 .ax).msb then 0xFFFF#16 else 0#16))

/-- D4 AAM Ib: R271. -/
def execAam (n : Byte) (s : State) : Res := .next (s.asciiMul n)

/-- D5 AAD Ib: R272. -/
def execAad (n : Byte) (s : State) : Res := .next (s.asciiDiv n)

/-- F6 /3 NEG Eb: R262. -/
def execNegEb (e : Rm8) (s : State) : Res := .next (s.unary8 aluNeg e)

/-- F6 /4 MUL Eb: R263. -/
def execMulEb (e : Rm8) (s : State) : Res := .next (s.multiply8 mulProduct8 mulWide8 e)

/-- F6 /5 IMUL Eb: R264. -/
def execImulEb (e : Rm8) (s : State) : Res := repRefused s (.next (s.multiply8 imulProduct8 imulWide8 e))

/-- F6 /6 DIV Eb: R265. -/
def execDivEb (e : Rm8) (s : State) : Res := .next (s.divide8 divQuotient8 e)

/-- F6 /7 IDIV Eb: R266. -/
def execIdivEb (e : Rm8) (s : State) : Res := repRefused s (.next (s.divide8 idivQuotient8 e))

/-- F7 /3 NEG Ev: R262. -/
def execNegEv (e : Rm16) (s : State) : Res := .next (s.unary16 aluNeg e)

/-- F7 /4 MUL Ev: R263. -/
def execMulEv (e : Rm16) (s : State) : Res := .next (s.multiply16 mulProduct16 mulWide16 e)

/-- F7 /5 IMUL Ev: R264. -/
def execImulEv (e : Rm16) (s : State) : Res := repRefused s (.next (s.multiply16 imulProduct16 imulWide16 e))

/-- F7 /6 DIV Ev: R265. -/
def execDivEv (e : Rm16) (s : State) : Res := .next (s.divide16 divQuotient16 e)

/-- F7 /7 IDIV Ev: R266. -/
def execIdivEv (e : Rm16) (s : State) : Res := repRefused s (.next (s.divide16 idivQuotient16 e))

/-- FE /0 INC Eb: R259. -/
def execIncEb (e : Rm8) (s : State) : Res := .next (s.unary8 aluInc e)

/-- FE /1 DEC Eb: R261. -/
def execDecEb (e : Rm8) (s : State) : Res := .next (s.unary8 aluDec e)

/-- FF /0 INC Ev: R259. -/
def execIncEv (e : Rm16) (s : State) : Res := .next (s.unary16 aluInc e)

/-- FF /1 DEC Ev: R261. -/
def execDecEv (e : Rm16) (s : State) : Res := .next (s.unary16 aluDec e)

end Sys2Proof.Machine
end

