-- ==== Sys2Proof/Machine/ControlTransfer.lean ====
section
/-!
DEFINITION. Control transfer (44_control_transfer.md, R350-R373): JMP CALL RET RETF, Jcc LOOP JCXZ, INT INT3 INTO IRET. A register operand of CALL Mp and
JMP Mp is refused in both modes (R423).
-/

namespace Sys2Proof.Machine

/-- CALL near: Push(ip), then the target (R356, R358). -/
def State.call (s : State) (t : Word) : State := (s.push s.ip).jump t

/-- CALL far: Push(CS), Push(ip), then the target (R357, R359). -/
def State.callTo (s : State) (c t : Word) : State := ((s.push (s.seg .cs)).push s.ip).farJump c t

/-- JMP E (R354). -/
def State.jumpOperand (s : State) (e : Rm16) : State :=
  let x := s.read16 (s.locate e)
  x.2.jump x.1

/-- CALL E: the operand is read before the push (R358). -/
def State.callOperand (s : State) (e : Rm16) : State :=
  let x := s.read16 (s.locate e)
  x.2.call x.1

/-- JMP far through memory (R355). -/
def State.jumpFar (s : State) (ea : Ea) : State :=
  let p := s.rdFar (s.operandSeg (defaultSeg ea)) (s.eaOffset ea)
  p.2.2.farJump p.2.1 p.1

/-- CALL far through memory: the pointer is read before the pushes (R359). -/
def State.callFar (s : State) (ea : Ea) : State :=
  let p := s.rdFar (s.operandSeg (defaultSeg ea)) (s.eaOffset ea)
  p.2.2.callTo p.2.1 p.1

/-- RET: IP from the stack, then SP released by `n` (R360, R361). -/
def State.retNear (s : State) (n : Word) : State :=
  let x := s.pop
  (x.2.setReg16 .sp (x.2.reg16 .sp + n)).jump x.1

/-- RETF: IP and CS from the stack, then SP released by `n` (R362, R363). -/
def State.retFar (s : State) (n : Word) : State :=
  let t := s.popFarTarget
  (t.setReg16 .sp (t.reg16 .sp + n)).flush

/-- A short conditional transfer: to `ip + sext(disp)` if taken, else falls through without a flush (R364, R369). -/
def State.branch (s : State) (taken : Bool) (disp : Byte) : State :=
  let s1 := s.noteBranch taken
  if taken then s1.jump (s1.ip + disp.signExtend 16) else s1

/-- LOOP, LOOPE, LOOPNE: CX decreases, and the branch is taken if CX is not 0 and `c` holds (R366-R368). -/
def State.loop (s : State) (c : Bool) (disp : Byte) : State :=
  let s1 := s.setReg16 .cx (s.reg16 .cx - 1)
  s1.branch (s1.reg16 .cx != 0 && c) disp

/-! ## The meanings, one for each constructor -/

/-- 70 JO Jb: R364; second: 60: R411. -/
def execJoJb (v : Enc) (disp : Byte) (s : State) : Res := documentedMain v s (.next (s.branch s.condO disp))

/-- 71 JNO Jb: R364; second: 61: R411. -/
def execJnoJb (v : Enc) (disp : Byte) (s : State) : Res := documentedMain v s (.next (s.branch (!s.condO) disp))

/-- 72 JB Jb: R364; second: 62: R411. -/
def execJbJb (v : Enc) (disp : Byte) (s : State) : Res := documentedMain v s (.next (s.branch s.condB disp))

/-- 73 JNB Jb: R364; second: 63: R411. -/
def execJnbJb (v : Enc) (disp : Byte) (s : State) : Res := documentedMain v s (.next (s.branch (!s.condB) disp))

/-- 74 JZ Jb: R364; second: 64: R411. -/
def execJzJb (v : Enc) (disp : Byte) (s : State) : Res := documentedMain v s (.next (s.branch s.condZ disp))

/-- 75 JNZ Jb: R364; second: 65: R411. -/
def execJnzJb (v : Enc) (disp : Byte) (s : State) : Res := documentedMain v s (.next (s.branch (!s.condZ) disp))

/-- 76 JBE Jb: R364; second: 66: R411. -/
def execJbeJb (v : Enc) (disp : Byte) (s : State) : Res := documentedMain v s (.next (s.branch s.condBE disp))

/-- 77 JNBE Jb: R364; second: 67: R411. -/
def execJnbeJb (v : Enc) (disp : Byte) (s : State) : Res := documentedMain v s (.next (s.branch (!s.condBE) disp))

/-- 78 JS Jb: R364; second: 68: R411. -/
def execJsJb (v : Enc) (disp : Byte) (s : State) : Res := documentedMain v s (.next (s.branch s.condS disp))

/-- 79 JNS Jb: R364; second: 69: R411. -/
def execJnsJb (v : Enc) (disp : Byte) (s : State) : Res := documentedMain v s (.next (s.branch (!s.condS) disp))

/-- 7A JP Jb: R364; second: 6A: R411. -/
def execJpJb (v : Enc) (disp : Byte) (s : State) : Res := documentedMain v s (.next (s.branch s.condP disp))

/-- 7B JNP Jb: R364; second: 6B: R411. -/
def execJnpJb (v : Enc) (disp : Byte) (s : State) : Res := documentedMain v s (.next (s.branch (!s.condP) disp))

/-- 7C JL Jb: R364; second: 6C: R411. -/
def execJlJb (v : Enc) (disp : Byte) (s : State) : Res := documentedMain v s (.next (s.branch s.condL disp))

/-- 7D JNL Jb: R364; second: 6D: R411. -/
def execJnlJb (v : Enc) (disp : Byte) (s : State) : Res := documentedMain v s (.next (s.branch (!s.condL) disp))

/-- 7E JLE Jb: R364; second: 6E: R411. -/
def execJleJb (v : Enc) (disp : Byte) (s : State) : Res := documentedMain v s (.next (s.branch s.condLE disp))

/-- 7F JNLE Jb: R364; second: 6F: R411. -/
def execJnleJb (v : Enc) (disp : Byte) (s : State) : Res := documentedMain v s (.next (s.branch (!s.condLE) disp))

/-- 9A CALL Ap: R357. -/
def execCallAp (off : Word) (sel : Word) (s : State) : Res := .next (s.callTo sel off)

/-- C2 RET Iw: R361; second: C0: R412. -/
def execRetIw (v : Enc) (n : Word) (s : State) : Res := documentedMain v s (.next (s.retNear n))

/-- C3 RET: R360; second: C1: R412. -/
def execRet (v : Enc) (s : State) : Res := documentedMain v s (.next (s.retNear 0))

/-- CA RETF Iw: R363; second: C8: R412. -/
def execRetfIw (v : Enc) (n : Word) (s : State) : Res := documentedMain v s (.next (s.retFar n))

/-- CB RETF: R362; second: C9: R412. -/
def execRetf (v : Enc) (s : State) : Res := documentedMain v s (.next (s.retFar 0))

/-- CC INT3: R371. -/
def execInt3 (s : State) : Res := .next (s.raiseInternal 3#8)

/-- CD INT Ib: R370. -/
def execIntIb (n : Byte) (s : State) : Res := .next (s.raiseInternal n)

/-- CE INTO: R372. -/
def execInto (s : State) : Res := .next (if s.flag .ovf then (s.noteBranch true).raiseInternal 4#8 else s.noteBranch false)

/-- CF IRET: R373. -/
def execIret (s : State) : Res := .next s.iret

/-- E0 LOOPNE Jb: R368. -/
def execLoopneJb (disp : Byte) (s : State) : Res := .next (s.loop (!s.flag .zf) disp)

/-- E1 LOOPE Jb: R367. -/
def execLoopeJb (disp : Byte) (s : State) : Res := .next (s.loop (s.flag .zf) disp)

/-- E2 LOOP Jb: R366. -/
def execLoopJb (disp : Byte) (s : State) : Res := .next (s.loop true disp)

/-- E3 JCXZ Jb: R369. -/
def execJcxzJb (disp : Byte) (s : State) : Res := .next (s.branch (s.reg16 .cx == 0) disp)

/-- E8 CALL Jv: R356. -/
def execCallJv (disp : Word) (s : State) : Res := .next (s.call (s.ip + disp))

/-- E9 JMP Jv: R352. -/
def execJmpJv (disp : Word) (s : State) : Res := .next (s.jump (s.ip + disp))

/-- EA JMP Ap: R353. -/
def execJmpAp (off : Word) (sel : Word) (s : State) : Res := .next (s.farJump sel off)

/-- EB JMP Jb: R351. -/
def execJmpJb (disp : Byte) (s : State) : Res := .next (s.jump (s.ip + disp.signExtend 16))

/-- FF /2 CALL Ev: R358. -/
def execCallEv (e : Rm16) (s : State) : Res := .next (s.callOperand e)

/-- FF /3 CALL Mp: R359. -/
def execCallMp (e : Rm16) (s : State) : Res := memoryOnly e s fun ea => .next (s.callFar ea)

/-- FF /4 JMP Ev: R354. -/
def execJmpEv (e : Rm16) (s : State) : Res := .next (s.jumpOperand e)

/-- FF /5 JMP Mp: R355. -/
def execJmpMp (e : Rm16) (s : State) : Res := memoryOnly e s fun ea => .next (s.jumpFar ea)

end Sys2Proof.Machine
end

