-- ==== Sys2Proof/Machine/DataTransfer.lean ====
section
/-!
DEFINITION. Data transfer (40_data_transfer.md, R200-R225): MOV PUSH POP XCHG XLAT IN OUT LEA LDS LES LAHF SAHF PUSHF POPF, with POP CS and MOV CS
(R414, R416).
-/

namespace Sys2Proof.Machine

/-- `r <- read(E)` at width 8 (R200). -/
def State.load8 (s : State) (r : Reg8) (l : Loc Reg8) : State :=
  let x := s.read8 l
  x.2.setReg8 r x.1

/-- `r <- read(E)` at width 16 (R200). -/
def State.load16 (s : State) (r : Reg16) (l : Loc Reg16) : State :=
  let x := s.read16 l
  x.2.setReg16 r x.1

/-- The interrupt shadow after a write to a segment register (R462). -/
def State.setShadow (s : State) : State := { s with intr := { s.intr with shadow := true } }

/-- MOV sreg, E: the read uses the old segments; the shadow is set (R205). -/
def State.movSeg (s : State) (r : SReg) (e : Rm16) : State :=
  let x := s.read16 (s.locate e)
  (x.2.setSeg r x.1).setShadow

/-- POP sreg: the word is read through the old SS; the shadow is set (R210). -/
def State.popSeg (s : State) (r : SReg) : State := (s.pop.2.setSeg r s.pop.1).setShadow

/-- A write of CS without a flush (R414): the next bytes, up to Q_CAP of them, a free number, still come from the old CS. The cycle level draws the number too
(R499) but has the queue itself, which makes it exact (log 12). -/
def State.setCsNoFlush (s : State) (v : Word) : State :=
  let k := s.drawNat
  let t := k.2.setSeg .cs v
  if s.port.replay then t else { t with fetchRace := some ⟨s.segs.cs, k.1 % (s.cfg.qCap + 1)⟩ }

/-- MOV CS, E (R416). -/
def State.movCs (s : State) (e : Rm16) : State :=
  let x := s.read16 (s.locate e)
  (x.2.setCsNoFlush x.1).setShadow

/-- POP CS (R414). -/
def State.popCs (s : State) : State := (s.pop.2.setCsNoFlush s.pop.1).setShadow

/-- The value PUSH E stores: the operand, or for SP itself a free choice of the old and the decremented SP (R208; log 10). -/
def State.pushValue (s : State) (e : Rm16) (v : Word) : Word × State :=
  match e with
  | .reg .sp =>
    let b := s.drawBit
    (if b.1 then v else v - 2, b.2)
  | .reg _ => (v, s)
  | .mem _ => (v, s)

/-- PUSH E (R208). -/
def State.pushOperand (s : State) (e : Rm16) : State :=
  let x := s.read16 (s.locate e)
  let p := x.2.pushValue e x.1
  p.2.push p.1

/-- POP r16: `r <- Pop()`, so POP SP leaves the word read (R209). -/
def State.popReg16 (s : State) (r : Reg16) : State := s.pop.2.setReg16 r s.pop.1

/-- POP E (R211). -/
def State.popOperand (s : State) (e : Rm16) : State := s.pop.2.write16 (s.locate e) s.pop.1

/-- XCHG E, G at width 8: one read, then one write, then G (R212). -/
def State.exchange8 (s : State) (e : Rm8) (g : Reg8) : State :=
  let l := s.locate e
  let x := s.read8 l
  (x.2.write8 l (s.reg8 g)).setReg8 g x.1

/-- XCHG E, G at width 16 (R212). -/
def State.exchange16 (s : State) (e : Rm16) (g : Reg16) : State :=
  let l := s.locate e
  let x := s.read16 l
  (x.2.write16 l (s.reg16 g)).setReg16 g x.1

/-- IN AL, port (R215, R216). -/
def State.inputByte (s : State) (p : Word) : State :=
  let x := s.ioRdB p
  x.2.setReg8 .al x.1

/-- IN AX, port (R215, R216). -/
def State.inputWord (s : State) (p : Word) : State :=
  let x := s.ioRdW p
  x.2.setReg16 .ax x.1

/-- LDS and LES: both words are read before either register is written (R220, R221). -/
def State.loadFar (s : State) (r : SReg) (g : Reg16) (ea : Ea) : State :=
  let p := s.rdFar (s.operandSeg (defaultSeg ea)) (s.eaOffset ea)
  (p.2.2.setReg16 g p.1).setSeg r p.2.1

/-- SAHF: SF, ZF, AF, PF and CF from the byte's bits 7, 6, 4, 2 and 0 (R223). -/
def State.setLowFlags (s : State) (v : Byte) : State :=
  ((((s.setFlag .sf (v.getLsbD 7)).setFlag .zf (v.getLsbD 6)).setFlag .af (v.getLsbD 4)).setFlag .pf (v.getLsbD 2)).setFlag .cf (v.getLsbD 0)

/-! ## The meanings, one for each constructor -/

/-- 06 0E 16 1E PUSH sreg: R207. -/
def execPushSreg (sr : SReg) (s : State) : Res := .next (s.push (s.seg sr))

/-- 07 17 1F POP sreg: R210; 0F POP CS: R414. -/
def execPopSreg (sr : SReg) (s : State) : Res :=
  match sr with
  | .cs => undocumented s (.next s.popCs)
  | .es => .next (s.popSeg .es)
  | .ss => .next (s.popSeg .ss)
  | .ds => .next (s.popSeg .ds)

/-- 50+r PUSH r16: R206. -/
def execPushReg (r : Reg16) (s : State) : Res :=
  match r with
  | .sp => .next (s.push (s.reg16 .sp - 2))
  | .ax | .cx | .dx | .bx | .bp | .si | .di => .next (s.push (s.reg16 r))

/-- 58+r POP r16: R209. -/
def execPopReg (r : Reg16) (s : State) : Res := .next (s.popReg16 r)

/-- 86 XCHG Eb,Gb: R212. -/
def execXchgEbGb (e : Rm8) (g : Reg8) (s : State) : Res := .next (s.exchange8 e g)

/-- 87 XCHG Ev,Gv: R212. -/
def execXchgEvGv (e : Rm16) (g : Reg16) (s : State) : Res := .next (s.exchange16 e g)

/-- 88 MOV Eb,Gb: R200. -/
def execMovEbGb (e : Rm8) (g : Reg8) (s : State) : Res := .next (s.write8 (s.locate e) (s.reg8 g))

/-- 89 MOV Ev,Gv: R200. -/
def execMovEvGv (e : Rm16) (g : Reg16) (s : State) : Res := .next (s.write16 (s.locate e) (s.reg16 g))

/-- 8A MOV Gb,Eb: R200. -/
def execMovGbEb (g : Reg8) (e : Rm8) (s : State) : Res := .next (s.load8 g (s.locate e))

/-- 8B MOV Gv,Ev: R200. -/
def execMovGvEv (g : Reg16) (e : Rm16) (s : State) : Res := .next (s.load16 g (s.locate e))

/-- 8C /0 to /3 MOV Ew,sreg: R204; second: 8C /4 to /7: R416. -/
def execMovEwSw (v : Enc) (sr : SReg) (e : Rm16) (s : State) : Res := documentedMain v s (.next (s.write16 (s.locate e) (s.seg sr)))

/-- 8D LEA Gv,M: R219. -/
def execLeaGvM (g : Reg16) (e : Rm16) (s : State) : Res := memoryOnly e s fun ea => .next (s.setReg16 g (s.eaOffset ea))

/-- 8E /0 /2 /3 MOV sreg,Ew: R205; CS and second (8E /4 to /7): R416. -/
def execMovSwEw (v : Enc) (sr : SReg) (e : Rm16) (s : State) : Res :=
  match sr with
  | .cs => undocumented s (.next (s.movCs e))
  | .es => documentedMain v s (.next (s.movSeg .es e))
  | .ss => documentedMain v s (.next (s.movSeg .ss e))
  | .ds => documentedMain v s (.next (s.movSeg .ds e))

/-- 8F /0 POP Ev: R211; /1 to /7: R417. -/
def execPopEv (reg : BitVec 3) (e : Rm16) (s : State) : Res := documentedZero reg s (.next (s.popOperand e))

/-- 91 to 97 XCHG AX,r16, r not AX: R213. -/
def execXchgAX (r : Reg16) (s : State) : Res := .next ((s.setReg16 .ax (s.reg16 r)).setReg16 r (s.reg16 .ax))

/-- 9C PUSHF: R224. -/
def execPushf (s : State) : Res := .next (s.push s.flagsWord)

/-- 9D POPF: R225. -/
def execPopf (s : State) : Res := .next (s.pop.2.setFlags s.pop.1)

/-- 9E SAHF: R223. -/
def execSahf (s : State) : Res := .next (s.setLowFlags (s.reg8 .ah))

/-- 9F LAHF: R222. -/
def execLahf (s : State) : Res := .next (s.setReg8 .ah (lowByte s.flagsWord))

/-- A0 MOV AL,Ob: R203. -/
def execMovALOb (off : Word) (s : State) : Res := .next (s.load8 .al (.mem (s.operandSeg .ds) off))

/-- A1 MOV AX,Ov: R203. -/
def execMovAXOv (off : Word) (s : State) : Res := .next (s.load16 .ax (.mem (s.operandSeg .ds) off))

/-- A2 MOV Ob,AL: R203. -/
def execMovObAL (off : Word) (s : State) : Res := .next (s.wrB (s.operandSeg .ds) off (s.reg8 .al))

/-- A3 MOV Ov,AX: R203. -/
def execMovOvAX (off : Word) (s : State) : Res := .next (s.wrW (s.operandSeg .ds) off (s.reg16 .ax))

/-- B0+r MOV r8,Ib: R202. -/
def execMovRegIb (r : Reg8) (imm : Byte) (s : State) : Res := .next (s.setReg8 r imm)

/-- B8+r MOV r16,Iv: R202. -/
def execMovRegIv (r : Reg16) (imm : Word) (s : State) : Res := .next (s.setReg16 r imm)

/-- C4 LES Gv,Mp: R221. -/
def execLesGvMp (g : Reg16) (e : Rm16) (s : State) : Res := memoryOnly e s fun ea => .next (s.loadFar .es g ea)

/-- C5 LDS Gv,Mp: R220. -/
def execLdsGvMp (g : Reg16) (e : Rm16) (s : State) : Res := memoryOnly e s fun ea => .next (s.loadFar .ds g ea)

/-- C6 /0 MOV Eb,Ib: R201; /1 to /7: R418. -/
def execMovEbIb (reg : BitVec 3) (e : Rm8) (imm : Byte) (s : State) : Res := documentedZero reg s (.next (s.write8 (s.locate e) imm))

/-- C7 /0 MOV Ev,Iv: R201; /1 to /7: R418. -/
def execMovEvIv (reg : BitVec 3) (e : Rm16) (imm : Word) (s : State) : Res := documentedZero reg s (.next (s.write16 (s.locate e) imm))

/-- D7 XLAT: R214. -/
def execXlat (s : State) : Res := .next (s.load8 .al (.mem (s.operandSeg .ds) (s.reg16 .bx + (s.reg8 .al).setWidth 16)))

/-- E4 IN AL,Ib: R215. -/
def execInALIb (port : Byte) (s : State) : Res := .next (s.inputByte (port.setWidth 16))

/-- E5 IN AX,Ib: R215. -/
def execInAXIb (port : Byte) (s : State) : Res := .next (s.inputWord (port.setWidth 16))

/-- E6 OUT Ib,AL: R217. -/
def execOutIbAL (port : Byte) (s : State) : Res := .next (s.ioWrB (port.setWidth 16) (s.reg8 .al))

/-- E7 OUT Ib,AX: R217. -/
def execOutIbAX (port : Byte) (s : State) : Res := .next (s.ioWrW (port.setWidth 16) (s.reg16 .ax))

/-- EC IN AL,DX: R216. -/
def execInALDX (s : State) : Res := .next (s.inputByte (s.reg16 .dx))

/-- ED IN AX,DX: R216. -/
def execInAXDX (s : State) : Res := .next (s.inputWord (s.reg16 .dx))

/-- EE OUT DX,AL: R218. -/
def execOutDXAL (s : State) : Res := .next (s.ioWrB (s.reg16 .dx) (s.reg8 .al))

/-- EF OUT DX,AX: R218. -/
def execOutDXAX (s : State) : Res := .next (s.ioWrW (s.reg16 .dx) (s.reg16 .ax))

/-- FF /6 PUSH Ev: R208; second: FF /7: R422. -/
def execPushEv (v : Enc) (e : Rm16) (s : State) : Res := documentedMain v s (.next (s.pushOperand e))

end Sys2Proof.Machine
end

