-- ==== Sys2Proof/Machine/LogicShift.lean ====
section
/-!
DEFINITION. Logic, shifts and rotates (42_logic_shift.md, R300-R314): AND OR XOR TEST NOT, ROL ROR RCL RCR SHL SHR SAR by 1 or by CL.
-/

namespace Sys2Proof.Machine

/-- AND (R301). -/
def aluAnd {w : Nat} (d v : BitVec w) (s : State) : Option (BitVec w) × State := (some (d &&& v), s.logicFlags (d &&& v))

/-- OR (R302). -/
def aluOr {w : Nat} (d v : BitVec w) (s : State) : Option (BitVec w) × State := (some (d ||| v), s.logicFlags (d ||| v))

/-- XOR (R303). -/
def aluXor {w : Nat} (d v : BitVec w) (s : State) : Option (BitVec w) × State := (some (d ^^^ v), s.logicFlags (d ^^^ v))

/-- TEST: the flags of AND, nothing written (R304). -/
def aluTest {w : Nat} (d v : BitVec w) (s : State) : Option (BitVec w) × State := (none, s.logicFlags (d &&& v))

/-- NOT: no flag changes (R305). -/
def aluNot {w : Nat} (v : BitVec w) (s : State) : Option (BitVec w) × State := (some (~~~v), s)

/-! ## The meanings, one for each constructor -/

/-- 08 OR Eb,Gb: R302. -/
def execOrEbGb (e : Rm8) (g : Reg8) (s : State) : Res := .next (s.binary8 aluOr e (s.reg8 g))

/-- 09 OR Ev,Gv: R302. -/
def execOrEvGv (e : Rm16) (g : Reg16) (s : State) : Res := .next (s.binary16 aluOr e (s.reg16 g))

/-- 0A OR Gb,Eb: R302. -/
def execOrGbEb (g : Reg8) (e : Rm8) (s : State) : Res := .next (s.toReg8 aluOr g e)

/-- 0B OR Gv,Ev: R302. -/
def execOrGvEv (g : Reg16) (e : Rm16) (s : State) : Res := .next (s.toReg16 aluOr g e)

/-- 0C OR AL,Ib: R302. -/
def execOrALIb (imm : Byte) (s : State) : Res := .next (s.binary8 aluOr (.reg .al) imm)

/-- 0D OR AX,Iv: R302. -/
def execOrAXIv (imm : Word) (s : State) : Res := .next (s.binary16 aluOr (.reg .ax) imm)

/-- 20 AND Eb,Gb: R301. -/
def execAndEbGb (e : Rm8) (g : Reg8) (s : State) : Res := .next (s.binary8 aluAnd e (s.reg8 g))

/-- 21 AND Ev,Gv: R301. -/
def execAndEvGv (e : Rm16) (g : Reg16) (s : State) : Res := .next (s.binary16 aluAnd e (s.reg16 g))

/-- 22 AND Gb,Eb: R301. -/
def execAndGbEb (g : Reg8) (e : Rm8) (s : State) : Res := .next (s.toReg8 aluAnd g e)

/-- 23 AND Gv,Ev: R301. -/
def execAndGvEv (g : Reg16) (e : Rm16) (s : State) : Res := .next (s.toReg16 aluAnd g e)

/-- 24 AND AL,Ib: R301. -/
def execAndALIb (imm : Byte) (s : State) : Res := .next (s.binary8 aluAnd (.reg .al) imm)

/-- 25 AND AX,Iv: R301. -/
def execAndAXIv (imm : Word) (s : State) : Res := .next (s.binary16 aluAnd (.reg .ax) imm)

/-- 30 XOR Eb,Gb: R303. -/
def execXorEbGb (e : Rm8) (g : Reg8) (s : State) : Res := .next (s.binary8 aluXor e (s.reg8 g))

/-- 31 XOR Ev,Gv: R303. -/
def execXorEvGv (e : Rm16) (g : Reg16) (s : State) : Res := .next (s.binary16 aluXor e (s.reg16 g))

/-- 32 XOR Gb,Eb: R303. -/
def execXorGbEb (g : Reg8) (e : Rm8) (s : State) : Res := .next (s.toReg8 aluXor g e)

/-- 33 XOR Gv,Ev: R303. -/
def execXorGvEv (g : Reg16) (e : Rm16) (s : State) : Res := .next (s.toReg16 aluXor g e)

/-- 34 XOR AL,Ib: R303. -/
def execXorALIb (imm : Byte) (s : State) : Res := .next (s.binary8 aluXor (.reg .al) imm)

/-- 35 XOR AX,Iv: R303. -/
def execXorAXIv (imm : Word) (s : State) : Res := .next (s.binary16 aluXor (.reg .ax) imm)

/-- 80 /1 OR Eb,Ib: R302; second: 82 /1: R248. -/
def execOrEbIb (_v : Enc) (e : Rm8) (imm : Byte) (s : State) : Res := .next (s.binary8 aluOr e imm)

/-- 80 /4 AND Eb,Ib: R301; second: 82 /4: R248. -/
def execAndEbIb (_v : Enc) (e : Rm8) (imm : Byte) (s : State) : Res := .next (s.binary8 aluAnd e imm)

/-- 80 /6 XOR Eb,Ib: R303; second: 82 /6: R248. -/
def execXorEbIb (_v : Enc) (e : Rm8) (imm : Byte) (s : State) : Res := .next (s.binary8 aluXor e imm)

/-- 81 /1 OR Ev,Iv: R302. -/
def execOrEvIv (e : Rm16) (imm : Word) (s : State) : Res := .next (s.binary16 aluOr e imm)

/-- 81 /4 AND Ev,Iv: R301. -/
def execAndEvIv (e : Rm16) (imm : Word) (s : State) : Res := .next (s.binary16 aluAnd e imm)

/-- 81 /6 XOR Ev,Iv: R303. -/
def execXorEvIv (e : Rm16) (imm : Word) (s : State) : Res := .next (s.binary16 aluXor e imm)

/-- 83 /1 OR Ev,Ib: R302. -/
def execOrEvIb (e : Rm16) (imm : Byte) (s : State) : Res := .next (s.binary16 aluOr e (imm.signExtend 16))

/-- 83 /4 AND Ev,Ib: R301. -/
def execAndEvIb (e : Rm16) (imm : Byte) (s : State) : Res := .next (s.binary16 aluAnd e (imm.signExtend 16))

/-- 83 /6 XOR Ev,Ib: R303. -/
def execXorEvIb (e : Rm16) (imm : Byte) (s : State) : Res := .next (s.binary16 aluXor e (imm.signExtend 16))

/-- 84 TEST Eb,Gb: R304. -/
def execTestEbGb (e : Rm8) (g : Reg8) (s : State) : Res := .next (s.binary8 aluTest e (s.reg8 g))

/-- 85 TEST Ev,Gv: R304. -/
def execTestEvGv (e : Rm16) (g : Reg16) (s : State) : Res := .next (s.binary16 aluTest e (s.reg16 g))

/-- A8 TEST AL,Ib: R304. -/
def execTestALIb (imm : Byte) (s : State) : Res := .next (s.binary8 aluTest (.reg .al) imm)

/-- A9 TEST AX,Iv: R304. -/
def execTestAXIv (imm : Word) (s : State) : Res := .next (s.binary16 aluTest (.reg .ax) imm)

/-- D0 /0 and D2 /0 ROL Eb,1 or CL: R307. -/
def execRolEb (c : Count) (e : Rm8) (s : State) : Res := .next (s.unary8 (shiftBy .rol (s.shiftCount c)) e)

/-- D0 /1 and D2 /1 ROR Eb,1 or CL: R308. -/
def execRorEb (c : Count) (e : Rm8) (s : State) : Res := .next (s.unary8 (shiftBy .ror (s.shiftCount c)) e)

/-- D0 /2 and D2 /2 RCL Eb,1 or CL: R309. -/
def execRclEb (c : Count) (e : Rm8) (s : State) : Res := .next (s.unary8 (shiftBy .rcl (s.shiftCount c)) e)

/-- D0 /3 and D2 /3 RCR Eb,1 or CL: R310. -/
def execRcrEb (c : Count) (e : Rm8) (s : State) : Res := .next (s.unary8 (shiftBy .rcr (s.shiftCount c)) e)

/-- D0 /4 and D2 /4 SHL Eb,1 or CL: R311. -/
def execShlEb (c : Count) (e : Rm8) (s : State) : Res := .next (s.unary8 (shiftBy .shl (s.shiftCount c)) e)

/-- D0 /5 and D2 /5 SHR Eb,1 or CL: R312. -/
def execShrEb (c : Count) (e : Rm8) (s : State) : Res := .next (s.unary8 (shiftBy .shr (s.shiftCount c)) e)

/-- D0 /7 and D2 /7 SAR Eb,1 or CL: R313. -/
def execSarEb (c : Count) (e : Rm8) (s : State) : Res := .next (s.unary8 (shiftBy .sar (s.shiftCount c)) e)

/-- D1 /0 and D3 /0 ROL Ev,1 or CL: R307. -/
def execRolEv (c : Count) (e : Rm16) (s : State) : Res := .next (s.unary16 (shiftBy .rol (s.shiftCount c)) e)

/-- D1 /1 and D3 /1 ROR Ev,1 or CL: R308. -/
def execRorEv (c : Count) (e : Rm16) (s : State) : Res := .next (s.unary16 (shiftBy .ror (s.shiftCount c)) e)

/-- D1 /2 and D3 /2 RCL Ev,1 or CL: R309. -/
def execRclEv (c : Count) (e : Rm16) (s : State) : Res := .next (s.unary16 (shiftBy .rcl (s.shiftCount c)) e)

/-- D1 /3 and D3 /3 RCR Ev,1 or CL: R310. -/
def execRcrEv (c : Count) (e : Rm16) (s : State) : Res := .next (s.unary16 (shiftBy .rcr (s.shiftCount c)) e)

/-- D1 /4 and D3 /4 SHL Ev,1 or CL: R311. -/
def execShlEv (c : Count) (e : Rm16) (s : State) : Res := .next (s.unary16 (shiftBy .shl (s.shiftCount c)) e)

/-- D1 /5 and D3 /5 SHR Ev,1 or CL: R312. -/
def execShrEv (c : Count) (e : Rm16) (s : State) : Res := .next (s.unary16 (shiftBy .shr (s.shiftCount c)) e)

/-- D1 /7 and D3 /7 SAR Ev,1 or CL: R313. -/
def execSarEv (c : Count) (e : Rm16) (s : State) : Res := .next (s.unary16 (shiftBy .sar (s.shiftCount c)) e)

/-- F6 /0 TEST Eb,Ib: R304; second: F6 /1: R419. -/
def execTestEbIb (v : Enc) (e : Rm8) (imm : Byte) (s : State) : Res := documentedMain v s (.next (s.binary8 aluTest e imm))

/-- F6 /2 NOT Eb: R305. -/
def execNotEb (e : Rm8) (s : State) : Res := .next (s.unary8 aluNot e)

/-- F7 /0 TEST Ev,Iv: R304; second: F7 /1: R419. -/
def execTestEvIv (v : Enc) (e : Rm16) (imm : Word) (s : State) : Res := documentedMain v s (.next (s.binary16 aluTest e imm))

/-- F7 /2 NOT Ev: R305. -/
def execNotEv (e : Rm16) (s : State) : Res := .next (s.unary16 aluNot e)

end Sys2Proof.Machine
end

