-- ==== Sys2Proof/Machine/ProcessorControl.lean ====
section
/-!
DEFINITION. Processor control (45_processor_control.md, R390-R403): flag instructions, HLT, WAIT, ESC, the prefixes and NOP.
-/

namespace Sys2Proof.Machine

/-- STI delays INTR by one boundary under STI_SHADOW (R396, R462). -/
def State.delayIntr (s : State) : State :=
  if s.cfg.stiShadow then { s with intr := { s.intr with stiDelay := true } } else s

/-- HLT: the halt bus cycle, then halted (R397, R100). The cycle transfers no data and its address is 0; its direction is the model's choice, write, with the data
field 00h (R41, R100; log 37). -/
def State.halt (s : State) : State :=
  let s1 := s.busWrite .halt 0#20 0#8
  { s1 with intr := { s1.intr with halted := true } }

/-- WAIT: done if TEST is asserted, else waiting (R398). -/
def State.startWait (s : State) : State := if s.intr.testPin then s else { s with waiting := true }

/-- The offsets from `ea` that ESC_READS gives for a coprocessor operation (R399; log 21). -/
def escOffsets (p : Params) (n : BitVec 6) : List Word :=
  match p.escReads.find? fun r => r.1 == n.toNat with
  | some r => r.2
  | none => []

/-- ESC: with a memory operand the reads of ESC_READS, whose data the core drops; no register or flag changes (R399). -/
def State.escape (s : State) (n : BitVec 6) (e : Rm16) : State :=
  match e with
  | .reg _ => s
  | .mem ea => (escOffsets s.cfg n).foldl (fun t d => (t.rdB (s.operandSeg (defaultSeg ea)) (s.eaOffset ea + d)).2) s

/-- A prefix byte: the latch as given, with `pfx.last` the offset of this byte (R142, R44). -/
def State.notePrefix (s : State) (p : Pfx) : State := { s with pfx := { p with last := some (s.ip - 1) } }

/-! ## The meanings, one for each constructor -/

/-- 26 ES:: R401. -/
def execSegES (s : State) : Res := .next (s.notePrefix ⟨some .es, s.pfx.rep, s.pfx.lock, s.pfx.start, s.pfx.last⟩)

/-- 2E CS:: R401. -/
def execSegCS (s : State) : Res := .next (s.notePrefix ⟨some .cs, s.pfx.rep, s.pfx.lock, s.pfx.start, s.pfx.last⟩)

/-- 36 SS:: R401. -/
def execSegSS (s : State) : Res := .next (s.notePrefix ⟨some .ss, s.pfx.rep, s.pfx.lock, s.pfx.start, s.pfx.last⟩)

/-- 3E DS:: R401. -/
def execSegDS (s : State) : Res := .next (s.notePrefix ⟨some .ds, s.pfx.rep, s.pfx.lock, s.pfx.start, s.pfx.last⟩)

/-- 90 NOP: R402. -/
def execNop (s : State) : Res := .next s

/-- 9B WAIT: R398. -/
def execWait (s : State) : Res := .next s.startWait

/-- D8 to DF ESC n,E, n the opcode's low three bits and the reg field: R399. -/
def execEsc (n : BitVec 6) (e : Rm16) (s : State) : Res := .next (s.escape n e)

/-- F0 LOCK: R400; second: F1: R415. -/
def execLock (v : Enc) (s : State) : Res := documentedMain v s (.next (s.notePrefix ⟨s.pfx.seg, s.pfx.rep, true, s.pfx.start, s.pfx.last⟩))

/-- F2 REPNE: R403. -/
def execRepne (s : State) : Res := .next (s.notePrefix ⟨s.pfx.seg, some .repne, s.pfx.lock, s.pfx.start, s.pfx.last⟩)

/-- F3 REP: R403. -/
def execRep (s : State) : Res := .next (s.notePrefix ⟨s.pfx.seg, some .repe, s.pfx.lock, s.pfx.start, s.pfx.last⟩)

/-- F4 HLT: R397. -/
def execHlt (s : State) : Res := .next s.halt

/-- F5 CMC: R392. -/
def execCmc (s : State) : Res := .next (s.setFlag .cf (!s.flag .cf))

/-- F8 CLC: R390. -/
def execClc (s : State) : Res := .next (s.setFlag .cf false)

/-- F9 STC: R391. -/
def execStc (s : State) : Res := .next (s.setFlag .cf true)

/-- FA CLI: R395. -/
def execCli (s : State) : Res := .next (s.setFlag .intf false)

/-- FB STI: R396. -/
def execSti (s : State) : Res := .next ((s.setFlag .intf true).delayIntr)

/-- FC CLD: R393. -/
def execCld (s : State) : Res := .next (s.setFlag .df false)

/-- FD STD: R394. -/
def execStd (s : State) : Res := .next (s.setFlag .df true)

end Sys2Proof.Machine
end

