-- ==== Sys2Proof/Machine/Boundary.lean ====
section
/-!
DEFINITION. Host inputs at recognition points (R571, R576), the boundary algorithm (R461), recognition between iterations of a repeated string instruction
(R463), while halted (R464) and while WAIT waits (R467), and DMA as the instruction level sees it (R97, R122).
-/

namespace Sys2Proof.Machine

/-! ## Host inputs (R576; log 16) -/

/-- Take one set of host inputs: levels are stored, and a rising NMI level sets the latch (R465, R466, R571). The stubs' own lines are left as they are
(R96; log 38). -/
def State.applyInput (s : State) (h : HostInput) : State :=
  let n := s.intr.nmiLatch || (h.nmi && !s.intr.nmiLevel)
  { s with
    intr := { s.intr with nmiLatch := n, nmiLevel := h.nmi, intrLine := h.intr, testPin := h.test, resetLine := h.reset, intaVector := h.inta }
    hostLines := ⟨h.dma, h.refresh⟩ }

/-- Sample the host: the next inputs of the script, or, when it has run out, the same levels without a reset (log 16). -/
def State.sampleInputs (s : State) : State :=
  match s.inputs with
  | h :: rest => { s with inputs := rest }.applyInput h
  | [] => { s with intr := { s.intr with resetLine := false } }

/-! ## Request lines: the host's beside the stubs' (R96, R97, R473, R571; log 38) -/

/-- The host's DMA request on a channel. -/
def State.hostDma (s : State) (ch : Nat) : Option DmaReq := s.hostLines.dma.getD ch none

/-- The stubs' DMA request on a channel. -/
def State.stubDma (s : State) (ch : Nat) : Option DmaReq := s.devtm.dreq.getD ch none

/-- The DMA request on a channel: the host's, or else the stubs' (log 38). -/
def State.dmaReq (s : State) (ch : Nat) : Option DmaReq := (s.hostDma ch).or (s.stubDma ch)

/-- How many channels either side drives. -/
def State.dmaChannels (s : State) : Nat := max s.hostLines.dma.length s.devtm.dreq.length

/-- The refresh request: the host's, or else the stubs' (log 38). -/
def State.refreshReq (s : State) : Option PAddr := s.hostLines.refresh.or s.devtm.rfq

/-- The INTR input: the host's line or the interrupt controller stub's (R466, R473; log 38). -/
def State.intrInput (s : State) : Bool := s.intr.intrLine || s.devtm.intr

/-! ## DMA at the instruction level (R97, R122; log 17) -/

/-- One DMA cycle: a byte of the device, a free value, goes to memory, or a memory byte goes to the device (R97). -/
def State.dmaCycle (s : State) (r : Option DmaReq) : State :=
  match r with
  | none => s
  | some q =>
    match q.dir with
    | .read => (s.directRead .memory q.addr).2
    | .write =>
      let v := s.drawBusByte
      v.2.directWrite .memory q.addr v.1

/-- LOCK holds other bus masters off (R98). -/
def State.busLocked (s : State) : Bool := s.pfx.lock && s.cfg.lockBlocksDma

/-- One refresh cycle: a memory read whose data is discarded; a device access among them is recorded (R84, R89, R97). -/
def State.refreshCycle (s : State) (r : Option PAddr) : State :=
  match r with
  | none => s
  | some a => (s.directRead .memory a).2

/-- Serve the pending DMA requests, the lowest channel first; each request is then dropped (R90, R97). -/
def State.serveChannels (s : State) : State :=
  let t := (List.range s.dmaChannels).foldl (fun u ch => (u.dmaCycle (s.hostDma ch)).dmaCycle (s.stubDma ch)) s
  { t with
    hostLines := { t.hostLines with dma := t.hostLines.dma.map fun _ => none }
    devtm := { t.devtm with dreq := t.devtm.dreq.map fun _ => none } }

/-- Serve the pending refresh requests, the host's and the stubs'; each is then dropped (R97). -/
def State.serveRefresh (s : State) : State :=
  let t := (s.refreshCycle s.hostLines.refresh).refreshCycle s.devtm.rfq
  { t with hostLines := { t.hostLines with refresh := none }, devtm := { t.devtm with rfq := none } }

/-- Serve the pending requests of a kind; the core's own kinds have none here (R89). -/
def State.serveKind (s : State) (k : ReqKind) : State :=
  match k with
  | .dma => s.serveChannels
  | .refresh => s.serveRefresh
  | .fetch => s
  | .operand => s

/-- Serve the pending DMA and refresh requests, in the rank of ARB_ORDER (R90), unless LOCK holds them off (R98; log 17). -/
def State.serveDma (s : State) : State := if s.busLocked then s else s.cfg.arbOrder.foldl State.serveKind s

/-! ## The boundary algorithm (R460-R462) -/

/-- INTR is recognised: the line is asserted, IF = 1 and no STI delay (R447, R461). -/
def State.intrReady (s : State) : Bool := s.intrInput && s.flag .intf && !s.intr.stiDelay

/-- The event the boundary algorithm takes (R461): none in the shadow; else NMI, INTR, the single-step trap, in this order. -/
def State.boundaryEvent (s : State) : Option Event :=
  if s.intr.shadow then none
  else if s.intr.nmiLatch then some .nmi
  else if s.intrReady then some .intr
  else if s.intr.trapPending && (s.entered != .internal || s.cfg.stepAfterInt) then some .trap
  else none

/-- What every boundary ends with: no shadow, no STI delay, no pending trap (R461). -/
def State.endBoundary (s : State) : State :=
  { s with intr := { s.intr with shadow := false, stiDelay := false, trapPending := false }, entered := .none }

/-- An event is taken at a recognition point: accepted, and entered next with offset `sip` to save (R461, R496; log 20). -/
def State.takeEvent (s : State) (ev : Event) (sip : Word) : State := { s.acceptEvent ev with entry := some ⟨ev, sip⟩ }

/-- The boundary algorithm after an instruction (R461), reset first (R571): at most one event is taken, and its entry is the next step (R8; log 1, log 20). -/
def State.recognise (s : State) : State :=
  if s.intr.resetLine then s.applyReset
  else
    match s.boundaryEvent with
    | some ev => (s.takeEvent ev s.ip).endBoundary
    | none => s.endBoundary

/-- An instruction boundary of the instruction level: the prefix latch is cleared (R44), the inputs sampled, DMA served, the boundary algorithm run. -/
def State.boundary (s : State) : State := { s with pfx := Pfx.clear }.sampleInputs.serveDma.recognise

/-- An instruction has completed: it is counted (R572) and its boundary follows. -/
def State.completeInstr (s : State) : State :=
  { s with driver := { s.driver with instructions := s.driver.instructions + 1 } }.boundary

/-! ## Recognition inside a repeated string instruction (R463) -/

/-- The decision after an iteration (R463): NMI, INTR, and the trap under STEP_IN_REP = per_iteration, in the order of R461. -/
def State.pollDecision (s : State) : Poll :=
  if s.intr.resetLine then .stop
  else if s.intr.nmiLatch then .take .nmi
  else if s.intrReady then .take .intr
  else if s.flag .tf && s.cfg.stepInRep == .perIteration then .take .trap
  else .go

/-- The recognition point between two iterations: sampled at once, or decided by the cycle level (log 2). -/
def State.poll (s : State) : Poll × State :=
  if s.port.replay then
    match s.portTake .poll with
    | (some (.poll p), s1) => (p, s1)
    | (_, s1) => (.stop, s1)
  else
    let s1 := s.sampleInputs.serveDma
    (s1.pollDecision, s1)

/-- A repeated string instruction is interrupted: the event is entered next, with `pfx.last` to save (R337, R452, R463). LOCK covers the instruction, and the
model ends it before the entry (log 39). -/
def State.interruptRep (s : State) (ev : Event) : State := s.takeEvent ev (s.pfx.last.getD s.ip)

/-- A repeated string instruction is stopped by a reset; at the cycle level it is only waiting for an answer. -/
def State.stopRep (s : State) : State := if s.port.replay then s else { s.applyReset with entered := .abandoned }

/-! ## Halt and WAIT (R464, R467) -/

/-- The event that ends a halt or interrupts WAIT: NMI, or INTR with IF = 1, under the conditions of R461. -/
def State.wakeEvent (s : State) : Option Event :=
  if s.intr.shadow then none
  else if s.intr.nmiLatch then some .nmi
  else if s.intrReady then some .intr
  else none

/-- One recognition point of a halted core: reset, NMI or INTR end the halt, with the offset after HLT saved; else nothing happens (R464; log 19). -/
def State.haltStep (s : State) : State :=
  let s1 := { s with port := Port.direct }.sampleInputs.serveDma
  if s1.intr.resetLine then s1.applyReset
  else
    match s1.wakeEvent with
    | some ev => ((s1.acceptEvent ev).enterEvent ev s1.ip).endBoundary
    | none => s1

/-- One recognition point of WAIT: reset; else TEST asserted completes it; else NMI or INTR is entered with the offset of the WAIT instruction saved;
else WAIT goes on (R398, R467; log 18). -/
def State.waitStep (s : State) : State :=
  let s1 := { s with port := Port.direct }.sampleInputs.serveDma
  if s1.intr.resetLine then s1.applyReset
  else if s1.intr.testPin then
    { s1 with waiting := false, pfx := Pfx.clear, driver := { s1.driver with instructions := s1.driver.instructions + 1 } }.recognise
  else
    match s1.wakeEvent with
    | some ev => { ((s1.acceptEvent ev).enterEvent ev (s1.pfx.start.getD s1.ip)).endBoundary with waiting := false, pfx := Pfx.clear }
    | none => s1

end Sys2Proof.Machine
end

