-- ==== Sys2Proof/Machine/StringOps.lean ====
section
/-!
DEFINITION. String instructions (43_string.md, R330-R338): one iteration of each, and the repeat loop with its recognition points (R331, R463).
-/

namespace Sys2Proof.Machine

/-! ## One iteration (R330, R332-R336) -/

/-- `delta` at a width: 1 or 2, negated when DF = 1 (R330). -/
def State.delta (s : State) (w : Width) : Word :=
  let k : Word := match w with
    | .byte => 1
    | .word => 2
  if s.flag .df then 0 - k else k

/-- SI moves by `delta` (R330). -/
def State.advanceSi (s : State) (w : Width) : State := s.setReg16 .si (s.reg16 .si + s.delta w)

/-- DI moves by `delta` (R330). -/
def State.advanceDi (s : State) (w : Width) : State := s.setReg16 .di (s.reg16 .di + s.delta w)

/-- MOVS: from (sseg, SI) to (ES, DI) (R332). -/
def State.movs (w : Width) (s : State) : State :=
  let g := s.operandSeg .ds
  match w with
  | .byte =>
    let x := s.rdB g (s.reg16 .si)
    ((x.2.wrB (s.seg .es) (s.reg16 .di) x.1).advanceSi w).advanceDi w
  | .word =>
    let x := s.rdW g (s.reg16 .si)
    ((x.2.wrW (s.seg .es) (s.reg16 .di) x.1).advanceSi w).advanceDi w

/-- CMPS: flags of the source element minus the destination element (R333). -/
def State.cmps (w : Width) (s : State) : State :=
  let g := s.operandSeg .ds
  match w with
  | .byte =>
    let a := s.rdB g (s.reg16 .si)
    let b := a.2.rdB (s.seg .es) (s.reg16 .di)
    (((b.2.subFlags a.1 b.1 false).2).advanceSi w).advanceDi w
  | .word =>
    let a := s.rdW g (s.reg16 .si)
    let b := a.2.rdW (s.seg .es) (s.reg16 .di)
    (((b.2.subFlags a.1 b.1 false).2).advanceSi w).advanceDi w

/-- SCAS: flags of the accumulator minus the destination element (R334). -/
def State.scas (w : Width) (s : State) : State :=
  match w with
  | .byte =>
    let b := s.rdB (s.seg .es) (s.reg16 .di)
    ((b.2.subFlags (s.reg8 .al) b.1 false).2).advanceDi w
  | .word =>
    let b := s.rdW (s.seg .es) (s.reg16 .di)
    ((b.2.subFlags (s.reg16 .ax) b.1 false).2).advanceDi w

/-- LODS: the accumulator from (sseg, SI) (R335). -/
def State.lods (w : Width) (s : State) : State :=
  let g := s.operandSeg .ds
  match w with
  | .byte =>
    let x := s.rdB g (s.reg16 .si)
    (x.2.setReg8 .al x.1).advanceSi w
  | .word =>
    let x := s.rdW g (s.reg16 .si)
    (x.2.setReg16 .ax x.1).advanceSi w

/-- STOS: the accumulator to (ES, DI) (R336). -/
def State.stos (w : Width) (s : State) : State :=
  match w with
  | .byte => (s.wrB (s.seg .es) (s.reg16 .di) (s.reg8 .al)).advanceDi w
  | .word => (s.wrW (s.seg .es) (s.reg16 .di) (s.reg16 .ax)).advanceDi w

/-! ## The repeat loop (R331, R337) -/

/-- The exit test of CMPS and SCAS after an iteration: REPE leaves on ZF = 0, REPNE on ZF = 1 (R331). -/
def State.repExit (s : State) (compares : Bool) (r : Rep) : Bool :=
  match r with
  | .repe => compares && !s.flag .zf
  | .repne => compares && s.flag .zf

/-- An access of the iteration is still unanswered; this happens at the cycle level only (log 2). -/
def State.portWaits (s : State) : Bool := s.port.replay && s.port.pending.isSome

/-- The loop of R331; `n` bounds the iterations left and equals CX. -/
def State.repLoop (compares : Bool) (iter : State → State) (r : Rep) : Nat → State → State
  | 0, s => s
  | n + 1, s =>
    let s1 := iter s
    let s2 := s1.setReg16 .cx (s1.reg16 .cx - 1)
    if s2.portWaits || s2.repExit compares r || s2.reg16 .cx == 0 then s2
    else
      match s2.poll with
      | (.go, s3) => State.repLoop compares iter r n s3
      | (.stop, s3) => s3.stopRep
      | (.take ev, s3) => s3.interruptRep ev

/-- A string instruction: one iteration without a repeat prefix, else the loop, which does nothing for CX = 0 (R330, R331). -/
def State.stringOp (s : State) (compares : Bool) (iter : State → State) : State :=
  match s.pfx.rep with
  | none => iter s
  | some r => State.repLoop compares iter r (s.reg16 .cx).toNat s

/-! ## The meanings, one for each constructor -/

/-- A4 MOVSB: R332. -/
def execMovsb (s : State) : Res := .next (s.stringOp false (State.movs .byte))

/-- A5 MOVSW: R332. -/
def execMovsw (s : State) : Res := .next (s.stringOp false (State.movs .word))

/-- A6 CMPSB: R333. -/
def execCmpsb (s : State) : Res := .next (s.stringOp true (State.cmps .byte))

/-- A7 CMPSW: R333. -/
def execCmpsw (s : State) : Res := .next (s.stringOp true (State.cmps .word))

/-- AA STOSB: R336. -/
def execStosb (s : State) : Res := .next (s.stringOp false (State.stos .byte))

/-- AB STOSW: R336. -/
def execStosw (s : State) : Res := .next (s.stringOp false (State.stos .word))

/-- AC LODSB: R335. -/
def execLodsb (s : State) : Res := .next (s.stringOp false (State.lods .byte))

/-- AD LODSW: R335. -/
def execLodsw (s : State) : Res := .next (s.stringOp false (State.lods .word))

/-- AE SCASB: R334. -/
def execScasb (s : State) : Res := .next (s.stringOp true (State.scas .byte))

/-- AF SCASW: R334. -/
def execScasw (s : State) : Res := .next (s.stringOp true (State.scas .word))

end Sys2Proof.Machine
end

