-- ==== Sys2Proof/Machine/Undocumented.lean ====
section
/-!
DEFINITION. Undocumented instructions (46_undocumented.md) that have constructors of their own: SALC (R413), SETMO and SETMOC (R420), FE /2 to /7 (R421).
The undocumented encodings of documented forms are in those forms' meanings.
-/

namespace Sys2Proof.Machine

/-- The flags of SETMO and SETMOC: CF = OF = AF = ZF = 0, SF = PF = 1 (R420). -/
def State.minusOneFlags (s : State) : State :=
  (((((s.setFlag .cf false).setFlag .ovf false).setFlag .af false).setFlag .sf true).setFlag .zf false).setFlag .pf true

/-- SETMO at width 8: the operand becomes all ones (R420). A memory operand is written and not read, which is the model's choice (log 43). -/
def State.minusOne8 (s : State) (e : Rm8) : State := (s.write8 (s.locate e) (BitVec.allOnes 8)).minusOneFlags

/-- SETMO at width 16 (R420); a memory operand is not read (log 43). -/
def State.minusOne16 (s : State) (e : Rm16) : State := (s.write16 (s.locate e) (BitVec.allOnes 16)).minusOneFlags

/-- FE /2 to /7: the spec gives no effect in either mode; under UNDOC_MODE = refuse as any undocumented encoding (R410, R421; log 34). -/
def feGroupRefused (_e : Rm8) (s : State) : Res := undocumented s (.refused .feGroup)

/-! ## The meanings, one for each constructor -/

/-- D0 /6 SETMO Eb,1: R420. -/
def execSetmoEb (e : Rm8) (s : State) : Res := undocumented s (.next (s.minusOne8 e))

/-- D1 /6 SETMO Ev,1: R420. -/
def execSetmoEv (e : Rm16) (s : State) : Res := undocumented s (.next (s.minusOne16 e))

/-- D2 /6 SETMOC Eb,CL: R420. With CL = 0 there is no bus cycle either (log 43). -/
def execSetmocEb (e : Rm8) (s : State) : Res := undocumented s (.next (if s.reg8 .cl = 0#8 then s else s.minusOne8 e))

/-- D3 /6 SETMOC Ev,CL: R420. With CL = 0 there is no bus cycle either (log 43). -/
def execSetmocEv (e : Rm16) (s : State) : Res := undocumented s (.next (if s.reg8 .cl = 0#8 then s else s.minusOne16 e))

/-- D6 SALC: R413. -/
def execSalc (s : State) : Res := undocumented s (.next (s.setReg8 .al (if s.flag .cf then 0xFF#8 else 0#8)))

/-- FE /2 FE__2 Eb: R421. -/
def execFe2 (e : Rm8) (s : State) : Res := feGroupRefused e s

/-- FE /3 FE__3 Eb: R421. -/
def execFe3 (e : Rm8) (s : State) : Res := feGroupRefused e s

/-- FE /4 FE__4 Eb: R421. -/
def execFe4 (e : Rm8) (s : State) : Res := feGroupRefused e s

/-- FE /5 FE__5 Eb: R421. -/
def execFe5 (e : Rm8) (s : State) : Res := feGroupRefused e s

/-- FE /6 FE__6 Eb: R421. -/
def execFe6 (e : Rm8) (s : State) : Res := feGroupRefused e s

/-- FE /7 FE__7 Eb: R421. -/
def execFe7 (e : Rm8) (s : State) : Res := feGroupRefused e s

end Sys2Proof.Machine
end

