-- ==== Sys2Proof/Machine/Dispatch.lean ====
section
/-! DEFINITION. exec: one arm for each constructor of Instr, each one direct call of its meaning. -/

namespace Sys2Proof.Machine

/-- The effect of one instruction or prefix byte (R15). -/
def exec (i : Instr) (s : State) : Host.Outcome State Fault Refusal :=
  match i with
  | .addEbGb e g => Sys2Proof.Machine.execAddEbGb e g s
  | .addEvGv e g => Sys2Proof.Machine.execAddEvGv e g s
  | .addGbEb g e => Sys2Proof.Machine.execAddGbEb g e s
  | .addGvEv g e => Sys2Proof.Machine.execAddGvEv g e s
  | .addALIb imm => Sys2Proof.Machine.execAddALIb imm s
  | .addAXIv imm => Sys2Proof.Machine.execAddAXIv imm s
  | .pushSreg sr => Sys2Proof.Machine.execPushSreg sr s
  | .popSreg sr => Sys2Proof.Machine.execPopSreg sr s
  | .orEbGb e g => Sys2Proof.Machine.execOrEbGb e g s
  | .orEvGv e g => Sys2Proof.Machine.execOrEvGv e g s
  | .orGbEb g e => Sys2Proof.Machine.execOrGbEb g e s
  | .orGvEv g e => Sys2Proof.Machine.execOrGvEv g e s
  | .orALIb imm => Sys2Proof.Machine.execOrALIb imm s
  | .orAXIv imm => Sys2Proof.Machine.execOrAXIv imm s
  | .adcEbGb e g => Sys2Proof.Machine.execAdcEbGb e g s
  | .adcEvGv e g => Sys2Proof.Machine.execAdcEvGv e g s
  | .adcGbEb g e => Sys2Proof.Machine.execAdcGbEb g e s
  | .adcGvEv g e => Sys2Proof.Machine.execAdcGvEv g e s
  | .adcALIb imm => Sys2Proof.Machine.execAdcALIb imm s
  | .adcAXIv imm => Sys2Proof.Machine.execAdcAXIv imm s
  | .sbbEbGb e g => Sys2Proof.Machine.execSbbEbGb e g s
  | .sbbEvGv e g => Sys2Proof.Machine.execSbbEvGv e g s
  | .sbbGbEb g e => Sys2Proof.Machine.execSbbGbEb g e s
  | .sbbGvEv g e => Sys2Proof.Machine.execSbbGvEv g e s
  | .sbbALIb imm => Sys2Proof.Machine.execSbbALIb imm s
  | .sbbAXIv imm => Sys2Proof.Machine.execSbbAXIv imm s
  | .andEbGb e g => Sys2Proof.Machine.execAndEbGb e g s
  | .andEvGv e g => Sys2Proof.Machine.execAndEvGv e g s
  | .andGbEb g e => Sys2Proof.Machine.execAndGbEb g e s
  | .andGvEv g e => Sys2Proof.Machine.execAndGvEv g e s
  | .andALIb imm => Sys2Proof.Machine.execAndALIb imm s
  | .andAXIv imm => Sys2Proof.Machine.execAndAXIv imm s
  | .segES => Sys2Proof.Machine.execSegES s
  | .daa => Sys2Proof.Machine.execDaa s
  | .subEbGb e g => Sys2Proof.Machine.execSubEbGb e g s
  | .subEvGv e g => Sys2Proof.Machine.execSubEvGv e g s
  | .subGbEb g e => Sys2Proof.Machine.execSubGbEb g e s
  | .subGvEv g e => Sys2Proof.Machine.execSubGvEv g e s
  | .subALIb imm => Sys2Proof.Machine.execSubALIb imm s
  | .subAXIv imm => Sys2Proof.Machine.execSubAXIv imm s
  | .segCS => Sys2Proof.Machine.execSegCS s
  | .das => Sys2Proof.Machine.execDas s
  | .xorEbGb e g => Sys2Proof.Machine.execXorEbGb e g s
  | .xorEvGv e g => Sys2Proof.Machine.execXorEvGv e g s
  | .xorGbEb g e => Sys2Proof.Machine.execXorGbEb g e s
  | .xorGvEv g e => Sys2Proof.Machine.execXorGvEv g e s
  | .xorALIb imm => Sys2Proof.Machine.execXorALIb imm s
  | .xorAXIv imm => Sys2Proof.Machine.execXorAXIv imm s
  | .segSS => Sys2Proof.Machine.execSegSS s
  | .aaa => Sys2Proof.Machine.execAaa s
  | .cmpEbGb e g => Sys2Proof.Machine.execCmpEbGb e g s
  | .cmpEvGv e g => Sys2Proof.Machine.execCmpEvGv e g s
  | .cmpGbEb g e => Sys2Proof.Machine.execCmpGbEb g e s
  | .cmpGvEv g e => Sys2Proof.Machine.execCmpGvEv g e s
  | .cmpALIb imm => Sys2Proof.Machine.execCmpALIb imm s
  | .cmpAXIv imm => Sys2Proof.Machine.execCmpAXIv imm s
  | .segDS => Sys2Proof.Machine.execSegDS s
  | .aas => Sys2Proof.Machine.execAas s
  | .incReg r => Sys2Proof.Machine.execIncReg r s
  | .decReg r => Sys2Proof.Machine.execDecReg r s
  | .pushReg r => Sys2Proof.Machine.execPushReg r s
  | .popReg r => Sys2Proof.Machine.execPopReg r s
  | .joJb v disp => Sys2Proof.Machine.execJoJb v disp s
  | .jnoJb v disp => Sys2Proof.Machine.execJnoJb v disp s
  | .jbJb v disp => Sys2Proof.Machine.execJbJb v disp s
  | .jnbJb v disp => Sys2Proof.Machine.execJnbJb v disp s
  | .jzJb v disp => Sys2Proof.Machine.execJzJb v disp s
  | .jnzJb v disp => Sys2Proof.Machine.execJnzJb v disp s
  | .jbeJb v disp => Sys2Proof.Machine.execJbeJb v disp s
  | .jnbeJb v disp => Sys2Proof.Machine.execJnbeJb v disp s
  | .jsJb v disp => Sys2Proof.Machine.execJsJb v disp s
  | .jnsJb v disp => Sys2Proof.Machine.execJnsJb v disp s
  | .jpJb v disp => Sys2Proof.Machine.execJpJb v disp s
  | .jnpJb v disp => Sys2Proof.Machine.execJnpJb v disp s
  | .jlJb v disp => Sys2Proof.Machine.execJlJb v disp s
  | .jnlJb v disp => Sys2Proof.Machine.execJnlJb v disp s
  | .jleJb v disp => Sys2Proof.Machine.execJleJb v disp s
  | .jnleJb v disp => Sys2Proof.Machine.execJnleJb v disp s
  | .addEbIb v e imm => Sys2Proof.Machine.execAddEbIb v e imm s
  | .orEbIb v e imm => Sys2Proof.Machine.execOrEbIb v e imm s
  | .adcEbIb v e imm => Sys2Proof.Machine.execAdcEbIb v e imm s
  | .sbbEbIb v e imm => Sys2Proof.Machine.execSbbEbIb v e imm s
  | .andEbIb v e imm => Sys2Proof.Machine.execAndEbIb v e imm s
  | .subEbIb v e imm => Sys2Proof.Machine.execSubEbIb v e imm s
  | .xorEbIb v e imm => Sys2Proof.Machine.execXorEbIb v e imm s
  | .cmpEbIb v e imm => Sys2Proof.Machine.execCmpEbIb v e imm s
  | .addEvIv e imm => Sys2Proof.Machine.execAddEvIv e imm s
  | .orEvIv e imm => Sys2Proof.Machine.execOrEvIv e imm s
  | .adcEvIv e imm => Sys2Proof.Machine.execAdcEvIv e imm s
  | .sbbEvIv e imm => Sys2Proof.Machine.execSbbEvIv e imm s
  | .andEvIv e imm => Sys2Proof.Machine.execAndEvIv e imm s
  | .subEvIv e imm => Sys2Proof.Machine.execSubEvIv e imm s
  | .xorEvIv e imm => Sys2Proof.Machine.execXorEvIv e imm s
  | .cmpEvIv e imm => Sys2Proof.Machine.execCmpEvIv e imm s
  | .addEvIb e imm => Sys2Proof.Machine.execAddEvIb e imm s
  | .orEvIb e imm => Sys2Proof.Machine.execOrEvIb e imm s
  | .adcEvIb e imm => Sys2Proof.Machine.execAdcEvIb e imm s
  | .sbbEvIb e imm => Sys2Proof.Machine.execSbbEvIb e imm s
  | .andEvIb e imm => Sys2Proof.Machine.execAndEvIb e imm s
  | .subEvIb e imm => Sys2Proof.Machine.execSubEvIb e imm s
  | .xorEvIb e imm => Sys2Proof.Machine.execXorEvIb e imm s
  | .cmpEvIb e imm => Sys2Proof.Machine.execCmpEvIb e imm s
  | .testEbGb e g => Sys2Proof.Machine.execTestEbGb e g s
  | .testEvGv e g => Sys2Proof.Machine.execTestEvGv e g s
  | .xchgEbGb e g => Sys2Proof.Machine.execXchgEbGb e g s
  | .xchgEvGv e g => Sys2Proof.Machine.execXchgEvGv e g s
  | .movEbGb e g => Sys2Proof.Machine.execMovEbGb e g s
  | .movEvGv e g => Sys2Proof.Machine.execMovEvGv e g s
  | .movGbEb g e => Sys2Proof.Machine.execMovGbEb g e s
  | .movGvEv g e => Sys2Proof.Machine.execMovGvEv g e s
  | .movEwSw v sr e => Sys2Proof.Machine.execMovEwSw v sr e s
  | .leaGvM g e => Sys2Proof.Machine.execLeaGvM g e s
  | .movSwEw v sr e => Sys2Proof.Machine.execMovSwEw v sr e s
  | .popEv reg e => Sys2Proof.Machine.execPopEv reg e s
  | .nop => Sys2Proof.Machine.execNop s
  | .xchgAX r => Sys2Proof.Machine.execXchgAX r s
  | .cbw => Sys2Proof.Machine.execCbw s
  | .cwd => Sys2Proof.Machine.execCwd s
  | .callAp off sel => Sys2Proof.Machine.execCallAp off sel s
  | .wait => Sys2Proof.Machine.execWait s
  | .pushf => Sys2Proof.Machine.execPushf s
  | .popf => Sys2Proof.Machine.execPopf s
  | .sahf => Sys2Proof.Machine.execSahf s
  | .lahf => Sys2Proof.Machine.execLahf s
  | .movALOb off => Sys2Proof.Machine.execMovALOb off s
  | .movAXOv off => Sys2Proof.Machine.execMovAXOv off s
  | .movObAL off => Sys2Proof.Machine.execMovObAL off s
  | .movOvAX off => Sys2Proof.Machine.execMovOvAX off s
  | .movsb => Sys2Proof.Machine.execMovsb s
  | .movsw => Sys2Proof.Machine.execMovsw s
  | .cmpsb => Sys2Proof.Machine.execCmpsb s
  | .cmpsw => Sys2Proof.Machine.execCmpsw s
  | .testALIb imm => Sys2Proof.Machine.execTestALIb imm s
  | .testAXIv imm => Sys2Proof.Machine.execTestAXIv imm s
  | .stosb => Sys2Proof.Machine.execStosb s
  | .stosw => Sys2Proof.Machine.execStosw s
  | .lodsb => Sys2Proof.Machine.execLodsb s
  | .lodsw => Sys2Proof.Machine.execLodsw s
  | .scasb => Sys2Proof.Machine.execScasb s
  | .scasw => Sys2Proof.Machine.execScasw s
  | .movRegIb r imm => Sys2Proof.Machine.execMovRegIb r imm s
  | .movRegIv r imm => Sys2Proof.Machine.execMovRegIv r imm s
  | .retIw v n => Sys2Proof.Machine.execRetIw v n s
  | .ret v => Sys2Proof.Machine.execRet v s
  | .lesGvMp g e => Sys2Proof.Machine.execLesGvMp g e s
  | .ldsGvMp g e => Sys2Proof.Machine.execLdsGvMp g e s
  | .movEbIb reg e imm => Sys2Proof.Machine.execMovEbIb reg e imm s
  | .movEvIv reg e imm => Sys2Proof.Machine.execMovEvIv reg e imm s
  | .retfIw v n => Sys2Proof.Machine.execRetfIw v n s
  | .retf v => Sys2Proof.Machine.execRetf v s
  | .int3 => Sys2Proof.Machine.execInt3 s
  | .intIb n => Sys2Proof.Machine.execIntIb n s
  | .into => Sys2Proof.Machine.execInto s
  | .iret => Sys2Proof.Machine.execIret s
  | .rolEb c e => Sys2Proof.Machine.execRolEb c e s
  | .rorEb c e => Sys2Proof.Machine.execRorEb c e s
  | .rclEb c e => Sys2Proof.Machine.execRclEb c e s
  | .rcrEb c e => Sys2Proof.Machine.execRcrEb c e s
  | .shlEb c e => Sys2Proof.Machine.execShlEb c e s
  | .shrEb c e => Sys2Proof.Machine.execShrEb c e s
  | .setmoEb e => Sys2Proof.Machine.execSetmoEb e s
  | .sarEb c e => Sys2Proof.Machine.execSarEb c e s
  | .rolEv c e => Sys2Proof.Machine.execRolEv c e s
  | .rorEv c e => Sys2Proof.Machine.execRorEv c e s
  | .rclEv c e => Sys2Proof.Machine.execRclEv c e s
  | .rcrEv c e => Sys2Proof.Machine.execRcrEv c e s
  | .shlEv c e => Sys2Proof.Machine.execShlEv c e s
  | .shrEv c e => Sys2Proof.Machine.execShrEv c e s
  | .setmoEv e => Sys2Proof.Machine.execSetmoEv e s
  | .sarEv c e => Sys2Proof.Machine.execSarEv c e s
  | .setmocEb e => Sys2Proof.Machine.execSetmocEb e s
  | .setmocEv e => Sys2Proof.Machine.execSetmocEv e s
  | .aam n => Sys2Proof.Machine.execAam n s
  | .aad n => Sys2Proof.Machine.execAad n s
  | .salc => Sys2Proof.Machine.execSalc s
  | .xlat => Sys2Proof.Machine.execXlat s
  | .esc n e => Sys2Proof.Machine.execEsc n e s
  | .loopneJb disp => Sys2Proof.Machine.execLoopneJb disp s
  | .loopeJb disp => Sys2Proof.Machine.execLoopeJb disp s
  | .loopJb disp => Sys2Proof.Machine.execLoopJb disp s
  | .jcxzJb disp => Sys2Proof.Machine.execJcxzJb disp s
  | .inALIb port => Sys2Proof.Machine.execInALIb port s
  | .inAXIb port => Sys2Proof.Machine.execInAXIb port s
  | .outIbAL port => Sys2Proof.Machine.execOutIbAL port s
  | .outIbAX port => Sys2Proof.Machine.execOutIbAX port s
  | .callJv disp => Sys2Proof.Machine.execCallJv disp s
  | .jmpJv disp => Sys2Proof.Machine.execJmpJv disp s
  | .jmpAp off sel => Sys2Proof.Machine.execJmpAp off sel s
  | .jmpJb disp => Sys2Proof.Machine.execJmpJb disp s
  | .inALDX => Sys2Proof.Machine.execInALDX s
  | .inAXDX => Sys2Proof.Machine.execInAXDX s
  | .outDXAL => Sys2Proof.Machine.execOutDXAL s
  | .outDXAX => Sys2Proof.Machine.execOutDXAX s
  | .lock v => Sys2Proof.Machine.execLock v s
  | .repne => Sys2Proof.Machine.execRepne s
  | .rep => Sys2Proof.Machine.execRep s
  | .hlt => Sys2Proof.Machine.execHlt s
  | .cmc => Sys2Proof.Machine.execCmc s
  | .testEbIb v e imm => Sys2Proof.Machine.execTestEbIb v e imm s
  | .notEb e => Sys2Proof.Machine.execNotEb e s
  | .negEb e => Sys2Proof.Machine.execNegEb e s
  | .mulEb e => Sys2Proof.Machine.execMulEb e s
  | .imulEb e => Sys2Proof.Machine.execImulEb e s
  | .divEb e => Sys2Proof.Machine.execDivEb e s
  | .idivEb e => Sys2Proof.Machine.execIdivEb e s
  | .testEvIv v e imm => Sys2Proof.Machine.execTestEvIv v e imm s
  | .notEv e => Sys2Proof.Machine.execNotEv e s
  | .negEv e => Sys2Proof.Machine.execNegEv e s
  | .mulEv e => Sys2Proof.Machine.execMulEv e s
  | .imulEv e => Sys2Proof.Machine.execImulEv e s
  | .divEv e => Sys2Proof.Machine.execDivEv e s
  | .idivEv e => Sys2Proof.Machine.execIdivEv e s
  | .clc => Sys2Proof.Machine.execClc s
  | .stc => Sys2Proof.Machine.execStc s
  | .cli => Sys2Proof.Machine.execCli s
  | .sti => Sys2Proof.Machine.execSti s
  | .cld => Sys2Proof.Machine.execCld s
  | .std => Sys2Proof.Machine.execStd s
  | .incEb e => Sys2Proof.Machine.execIncEb e s
  | .decEb e => Sys2Proof.Machine.execDecEb e s
  | .fe2 e => Sys2Proof.Machine.execFe2 e s
  | .fe3 e => Sys2Proof.Machine.execFe3 e s
  | .fe4 e => Sys2Proof.Machine.execFe4 e s
  | .fe5 e => Sys2Proof.Machine.execFe5 e s
  | .fe6 e => Sys2Proof.Machine.execFe6 e s
  | .fe7 e => Sys2Proof.Machine.execFe7 e s
  | .incEv e => Sys2Proof.Machine.execIncEv e s
  | .decEv e => Sys2Proof.Machine.execDecEv e s
  | .callEv e => Sys2Proof.Machine.execCallEv e s
  | .callMp e => Sys2Proof.Machine.execCallMp e s
  | .jmpEv e => Sys2Proof.Machine.execJmpEv e s
  | .jmpMp e => Sys2Proof.Machine.execJmpMp e s
  | .pushEv v e => Sys2Proof.Machine.execPushEv v e s

end Sys2Proof.Machine
end

