-- ==== Sys2Proof/Machine/Fetch.lean ====
section
/-!
DEFINITION. Fetching an instruction's bytes at the instruction level (R13 FetchB, R162), with the races of R125 and R414, what starts and ends an
instruction (R442, R461), and placing bytes where the next fetch finds them.
-/

namespace Sys2Proof.Machine

/-- The byte a code fetch at that address reads now (R82, R83). -/
def State.codeByte (s : State) (k : Nat) : Byte :=
  ({ s with busDraws := s.busDraws + k }.readValue false .memory (s.fetchAddr k)).1

/-- The older values the byte at that offset, fetched from that address, may still have in the queue (R125, R414; log 11). -/
def State.staleAt (s : State) (k : Nat) : List Byte :=
  (s.stale.filter fun p => p.offset == (s.ip + BitVec.ofNat 16 k).toNat && p.addr == (s.fetchAddr k).toNat).map (·.old)

/-- The `k`-th byte from IP on as decoded: the byte of memory, or, where a store raced with the fetch, a free choice between it and the older ones
(R125; log 11). -/
def State.fetchByte (s : State) (k : Nat) : Byte :=
  match s.staleAt k with
  | [] => s.codeByte k
  | old :: more =>
    let cands := s.codeByte k :: old :: more
    cands.getD (Config.freeFetchPick (s.busDraws + k) % cands.length) (s.codeByte k)

/-- The bytes at CS:IP, enough for any instruction (R153). -/
def State.fetchWindow (s : State) : List Byte := (List.range maxInstrBytes).map s.fetchByte

/-- Record the device accesses of `n` fetched bytes (R84). -/
def State.recordFetch (s : State) (n : Nat) : State :=
  (List.range n).foldl (fun t k => t.record .memory .read (s.fetchAddr k) (s.fetchByte k)) s

/-- The fetch race with `n` more bytes taken. -/
def FetchRace.take (n : Nat) (r : Option FetchRace) : Option FetchRace :=
  match r with
  | some q => if n < q.left then some ⟨q.oldCs, q.left - n⟩ else none
  | none => none

/-- Take the `n` bytes of an instruction: IP and the fetch pointer move past them (R25, R112). -/
def State.commitFetch (s : State) (n : Nat) : State :=
  { s.recordFetch n with
    ip := s.ip + BitVec.ofNat 16 n
    biu := { s.biu with pfp := s.biu.pfp + BitVec.ofNat 16 n }
    fetchRace := FetchRace.take n s.fetchRace
    busDraws := s.busDraws + maxInstrBytes }

/-- The start of an instruction, at its first byte: `pfx.start` is its offset and `trap_pending <- TF` (R44, R442). -/
def State.startInstr (s : State) : State :=
  match s.pfx.start with
  | some _ => s
  | none =>
    { s with pfx := { s.pfx with start := some s.ip }, intr := { s.intr with trapPending := s.flag .tf }, entered := .none }

/-- The state in which the meaning of an instruction of `n` bytes runs: started, with IP past the instruction (R15). -/
def State.beginInstr (s : State) (n : Nat) : State := { s.startInstr with port := Port.direct }.commitFetch n

/-- Whether an instruction is a prefix byte (R141). -/
def isPrefixInstr (i : Instr) : Bool :=
  match i with
  | .segES => true
  | .segCS => true
  | .segSS => true
  | .segDS => true
  | .lock _ => true
  | .repne => true
  | .rep => true
  | _ => false

/-- What follows the meaning of an instruction that is no prefix: nothing while WAIT waits; where a repeated string instruction has been interrupted the latches
are cleared, and it is not counted (log 20); after a reset the machine is as the reset left it; else the instruction is complete. -/
def State.finish (s : State) : State :=
  if s.waiting then s
  else
    match s.entry with
    | some _ => { s.endBoundary with pfx := Pfx.clear }
    | none =>
      match s.entered with
      | .abandoned => { s with entered := .none }
      | .internal => s.completeInstr
      | .none => s.completeInstr

/-- Put a byte where code is fetched from; an address ADDR_MAP does not map becomes RAM (log 28). -/
def State.placeByte (s : State) (k : Nat) (b : Byte) : State :=
  let a := phys s.segs.cs (s.ip + BitVec.ofNat 16 k)
  let mapped :=
    match s.cfg.memKind a with
    | .ram => true
    | .rom => true
    | .mmio _ => false
    | .none => false
  { s with
    mem := Memory.write s.mem a.toNat b
    cfg := if mapped then s.cfg else { s.cfg with addrMap := ⟨a.toNat, 1, .ram, 0, none⟩ :: s.cfg.addrMap } }

/-- Put bytes from IP on, the `k`-th next. -/
def State.placeBytes (s : State) (k : Nat) (bs : List Byte) : State :=
  match bs with
  | [] => s
  | b :: rest => (s.placeByte k b).placeBytes (k + 1) rest

/-- The state with bytes at CS:IP and a core about to fetch them: not halted, not waiting, no event to enter, no fetch race (log 28). -/
def State.withCode (s : State) (bs : List Byte) : State :=
  { s with intr := { s.intr with halted := false }, waiting := false, entry := none, stale := [], fetchRace := none }.placeBytes 0 bs

end Sys2Proof.Machine
end

