-- ==== Sys2Proof/Machine/Run.lean ====
section
/-!
DEFINITION. Running one whole instruction with its prefixes, or the entry of one event, at the instruction level (R8, R15, R142, R163, R450).
-/

namespace Sys2Proof.Machine

/-- Run `f` on a next state. -/
def mapNext (r : Res) (f : State → State) : Res :=
  match r with
  | .next s => .next (f s)
  | .fault x => .fault x
  | .refused x => .refused x

/-- Run one decoded instruction whose bytes, from the opcode on, are `n` long: its start, its meaning, and what follows it (R15, R461). -/
def runInstr (i : Instr) (n : Nat) (s : State) : Res := mapNext (exec i (s.beginInstr n)) State.finish

/-- Run the instruction at CS:IP with all its prefixes (R8, R142): a prefix byte is latched and the next byte decoded, with no boundary between (R460); `fuel`
bounds how many (log 1). -/
def State.runStream (fuel : Nat) (s : State) : Res :=
  match fuel with
  | 0 => .next s
  | n + 1 =>
    match decode s.fetchWindow with
    | .reject _ => .fault .fetchWindow
    | .ok i rest =>
      if isPrefixInstr i then
        match exec i (s.beginInstr (maxInstrBytes - rest.length)) with
        | .next t => t.runStream n
        | .fault f => .fault f
        | .refused r => .refused r
      else runInstr i (maxInstrBytes - rest.length) s

/-- How many prefix bytes one step takes at most: as many as a segment has offsets (R163 sets no limit; log 1). -/
def maxPrefixes : Nat := 0x10000

/-- Enter the event the last boundary took (R450, R461). -/
def State.runEntry (s : State) (e : PendingEntry) : State := { s with entry := none, port := Port.direct }.enterEvent e.event e.sip

end Sys2Proof.Machine
end

