-- ==== Sys2Proof/Machine/Step.lean ====
section
/-!
DEFINITION. One step of the instruction level (R8): one interrupt, one recognition point of a waiting or halted core, or one whole instruction with its
prefixes; and placing an instruction where step fetches (log 28).
-/

namespace Sys2Proof.Machine

/-- One step (R8): the entry of the event the last boundary took, or a recognition point of WAIT or of a halt, or one whole instruction with its prefixes and
the decision at its boundary (log 1). -/
def step (s : State) : Res :=
  match s.entry with
  | some e => .next (s.runEntry e)
  | none =>
    if s.waiting then .next s.waitStep
    else if s.intr.halted then .next s.haltStep
    else s.runStream maxPrefixes

/-- The instruction whose bits are `w`, placed where `step` fetches its next instruction (log 28). -/
def State.withFetchWord (s : State) (nbits w : Nat) : State := s.withCode (tableBytes nbits w)

end Sys2Proof.Machine
end

