-- ==== Sys2Proof/Machine/Bus.lean ====
section
/-!
DEFINITION. The cycle level's bus: the prefetch queue (R105-R109), the parts of a bus cycle (R85-R88, R93-R96) and code fetch (R112-R115). Who is granted the
bus, and when, stands in Scheduler.lean.
-/

namespace Sys2Proof.Machine

/-! ## The prefetch queue as a FIFO (R40, R106, R108) -/

/-- `push(b)`: none is QueueFull, which changes nothing (R106). -/
def queuePush (q : Queue) (b : Byte) : Option Queue :=
  if q.len < q.buf.length then some ⟨q.buf.set q.tail b, q.head, (q.tail + 1) % q.buf.length, q.len + 1⟩ else none

/-- `pop()`: none is an empty queue, on which the caller stalls (R108). -/
def queuePop (q : Queue) : Option (Byte × Queue) :=
  if 0 < q.len then some (q.buf.getD q.head 0#8, ⟨q.buf, (q.head + 1) % q.buf.length, q.tail, q.len - 1⟩) else none

/-- The bytes in the queue, the oldest first (R116). -/
def queueBytes (q : Queue) : List Byte := (List.range q.len).map fun i => q.buf.getD ((q.head + i) % q.buf.length) 0#8

/-- A fetched byte arrives: pushed, and the fetch pointer moves; a full queue is the fault QueueOverrun (R107, R114). -/
def State.pushFetched (s : State) (b : Byte) : State :=
  match queuePush s.biu.queue b with
  | some q => { s with biu := { s.biu with queue := q, pfp := s.biu.pfp + 1 } }
  | none => { s with driver := { s.driver with status := .fault .queueOverrun } }

/-! ## The running cycle -/

/-- The space of the running bus cycle. -/
def Bus.cycle? (b : Bus) : Option Cycle :=
  match b with
  | .idle => none
  | .t1 c => some c
  | .t2 c => some c
  | .t3 c => some c
  | .tw c => some c
  | .t4 c => some c

/-! ## Wait states (R88) -/

/-- Timing class of an address or port (R42, R82, R83); INTA and halt cycles address nothing and have class 0. -/
def timingClass (p : Params) (sp : Space) (a : PAddr) : Nat :=
  match sp with
  | .memory =>
    match p.region a with
    | some r => r.timing
    | none => p.unmappedTiming
  | .io =>
    match p.portRow a with
    | some r => r.timing
    | none => p.unmappedTiming
  | .inta => 0
  | .halt => 0

/-- `WAITS(devtm, space, addr, dir, req)` (R88), under the video adapter class (R576; log 22, log 41). -/
def State.waitsFor (s : State) (sp : Space) (a : PAddr) (d : Dir) (r : Requester) : Nat :=
  match s.cfg.waits with
  | .free => Config.waits s.cfg.video s.devtm sp a d r
  | .table rows =>
    match rows.find? fun w => s.cfg.fitted w.video && w.space == sp && w.timing == timingClass s.cfg sp a with
    | some w => w.waits
    | none => 0

/-! ## The bus cycle (R85-R88, R93) -/

/-- T1 of a cycle (R88, R93). -/
def State.startBus (s : State) (sp : Space) (d : Dir) (a : PAddr) (v : Byte) (r : Requester) : State :=
  { s with bus := .t1 ⟨a, v, d, sp, r, s.waitsFor sp a d r, s.cfg.addrFault sp a⟩ }

/-- A read cycle enters T3: its data becomes valid (R41; log 24). A write's data was there before. -/
def State.enterT3 (s : State) (c : Cycle) : State :=
  match c.dir with
  | .read =>
    let v := s.readValue true c.space c.addr
    { v.2 with bus := .t3 { c with data := v.1 } }
  | .write => { s with bus := .t3 c }

/-- `commit_transfer`: on the tick that enters T4 a write takes effect, and a device access is recorded (R84, R88). -/
def State.commitTransfer (s : State) (c : Cycle) : State :=
  match c.dir with
  | .read => s.record c.space .read c.addr c.data
  | .write => (s.storeValue c.space c.addr c.data).record c.space .write c.addr c.data

/-- The delivery of a finished code fetch: its byte pushed, or dropped after a flush (R114, R115), its AddressFault bit kept (R95). -/
def State.completeFetch (s : State) (d : Delivery) : State :=
  let s1 := { s with biu := { s.biu with fetchInflight := false, fetchDiscard := false, fetchFault := d.addrFault } }
  if s.biu.fetchDiscard then s1 else s1.pushFetched d.data

/-- `complete`: on the tick that leaves T4 the byte and the AddressFault bit go to the requester: the queue, the engine or a DMA device (R93, R95, R99, R114);
the byte is the last bus value (R83), which a halt cycle, transferring no data (R100), leaves as it was: the model's choice (log 46). A DMA channel's acknowledge falls here, before the next cycle's WAITS reads it (log 42). -/
def State.completeCycle (s : State) (c : Cycle) : State :=
  let s1 := { s with lastBus := if c.space == .halt then s.lastBus else c.data }
  let d : Delivery := ⟨c.data, c.addrFault⟩
  match c.req with
  | .fetch => s1.completeFetch d
  | .operand =>
    { s1 with eng := { s1.eng with request := none, granted := false, reply := some d, inta := if c.space == .inta then s1.eng.inta + 1 else s1.eng.inta } }
  | .dma ch => { s1 with devtm := { s1.devtm with dack := s1.devtm.dack.erase ch, delivered := some ⟨ch, d⟩ } }
  | .refresh => s1

/-- DEVTM_STEP, once a tick, from the whole bus cycle state before the tick (R93, R96; log 22). -/
def State.stepDevices (s : State) : State :=
  match s.cfg.devStep with
  | .hold => s
  | .free => { s with devtm := Config.devtmStep s.devtm s.bus }

end Sys2Proof.Machine
end

