-- ==== Sys2Proof/Machine/Engine.lean ====
section
/-!
DEFINITION. The execution engine's micro-step machine (R495-R501): Fetching, Decoding, Executing and Complete, one evaluation a tick. What an instruction
does is its meaning in `exec`, run in replay against the answers its accesses have had (log 2); the engine adds when each access is made (TIMING, R500) and with
which micro-step each write takes effect (R47, R498).
-/

namespace Sys2Proof.Machine

/-! ## TIMING (R500, R501; log 22, log 23) -/

/-- The mod and r/m class of a ModR/M byte (R146, R500). -/
def operandMode (m : Byte) : OperandMode := if modField m = 3#2 then .register else .memory (modField m) (rmField m)

/-- Whether a row's column, if it names a value, is met by what the instruction has there, if it has anything. -/
def keyMatches {α : Type} [DecidableEq α] (key : Option α) (value : Option α) : Bool := key.isNone || key == value

/-- The row of a TIMING table for an instruction's bytes from the opcode on and its repeat prefix (R500; log 22). -/
def timingRow (rows : List TimingRow) (bs : List Byte) (rep : Option Rep) : Option TimingRow :=
  match bs with
  | [] => none
  | op :: rest =>
    rows.find? fun r => r.opcode == op && keyMatches r.reg (rest.head?.map regField) && keyMatches r.mode (rest.head?.map operandMode) &&
      keyMatches r.repeated (some rep.isSome)

/-- Whether an opcode is a string instruction's (R338). -/
def stringOpcode (op : Byte) : Bool := decide (0xA4#8 ≤ op ∧ op ≤ 0xA7#8) || decide (0xAA#8 ≤ op ∧ op ≤ 0xAF#8)

/-- Whether a form is a repeated string instruction (R331). -/
def repeatedString (f : TimedForm) : Bool :=
  match f with
  | .instr bs rep => rep.isSome && bs.head?.any stringOpcode
  | .entry _ => false

/-- The schedule of an event's entry (R500). -/
def entrySchedule (e : EntrySchedules) (ev : Event) : Schedule :=
  match ev with
  | .nmi => e.nmi
  | .intr => e.intr
  | .trap => e.trap

/-- The schedule a TIMING table gives a form (R500). -/
def tableSchedule (rows : List TimingRow) (entries : EntrySchedules) (f : TimedForm) : Schedule :=
  match f with
  | .instr bs rep => ((timingRow rows bs rep).map (·.schedule)).getD .minimal
  | .entry ev => entrySchedule entries ev

/-- Internal micro-steps of a schedule before access `i`, or, when `last`, after all `i` accesses, for a count; the gaps cycle where `cyclic` (R500). -/
def scheduleInternals (r : Schedule) (cyclic : Bool) (count i : Nat) (last : Bool) : Nat :=
  let j := if cyclic then (i - 1) % r.gaps.length else i - 1
  (if i = 0 then r.lead else if last then 0 else r.gaps.getD j 0) + (if last then r.tail + r.perCount * count else 0)

/-- The form the operation is timed as (R500). -/
def State.timedForm (s : State) : TimedForm :=
  match s.eng.op with
  | .entry ev _ => .entry ev
  | .instr _ => .instr s.eng.bytes s.pfx.rep
  | .halt => .instr s.eng.bytes s.pfx.rep
  | .none => .instr s.eng.bytes s.pfx.rep

/-- What the operation started from (log 2). -/
def State.base (s : State) : Arch := s.eng.start.getD s.arch

/-- The count TIMING may depend on: CL of a shift by CL; the iterations of a repeated string instruction begun so far, CX having counted them down in `t`, the
operation's run; else 1 (R500, R306, R331). -/
def State.timingCount (s t : State) : Nat :=
  match s.timedForm with
  | .instr (op :: _) _ =>
    if op == 0xD2#8 || op == 0xD3#8 then (lowByte s.base.regs.cx).toNat
    else if repeatedString s.timedForm then (s.base.regs.cx - t.regs.cx).toNat
    else 1
  | .instr [] _ => 1
  | .entry _ => 1

/-- Internal micro-steps before access `i` of the operation whose run is `t`, or, when `last`, after all `i` accesses (R500). -/
def State.internalSteps (s t : State) (i : Nat) (last : Bool) : Nat :=
  match s.cfg.timing with
  | .free => Config.timing s.timedForm (s.timingCount t) i
  | .table rows entries => scheduleInternals (tableSchedule rows entries s.timedForm) (repeatedString s.timedForm) (s.timingCount t) i last

/-- Extra internal micro-steps: odd word operands, and a taken or not-taken conditional transfer (R501; log 23). -/
def State.penaltySteps (s : State) (t : Port) : Nat :=
  let row := (s.cfg.branchPenalty.find? fun r => s.eng.bytes.head? == some r.opcode).getD ⟨0#8, 0, 0⟩
  s.cfg.oddWordPenalty * t.oddWords +
    match t.branch with
    | some true => row.taken
    | some false => row.notTaken
    | none => 0

/-- How many byte accesses have been answered. -/
def Engine.accesses (e : Engine) : Nat :=
  e.answers.countP fun a => match a with
    | .byte _ => true
    | .poll _ => false

/-! ## Running the operation in replay (log 2) -/

/-- The operation run from what it started from, with the answers it has had. -/
def State.runOp (s : State) : Res :=
  let s1 := { s.withArch s.base with port := ⟨true, s.eng.answers, none, none, 0, none⟩ }
  match s.eng.op with
  | .instr i => exec i s1
  | .entry ev sip => .next (s1.enterEvent ev sip)
  | .halt => .next s1
  | .none => .next s1

/-- Keep an answer. -/
def State.addAnswer (s : State) (a : Answer) : State := { s with eng := { s.eng with answers := s.eng.answers ++ [a] } }

/-- The operation with any recognition point reached decided at once, without a micro-step of its own (R463; log 25): the state with its answers, and the result
of the run. -/
def State.settle (s : State) : State × Res :=
  match s.runOp with
  | .next t =>
    match t.port.pending with
    | some .poll =>
      let s1 := s.addAnswer (.poll t.pollDecision)
      (s1, s1.runOp)
    | some (.access _) => (s, .next t)
    | none => (s, .next t)
  | .fault f => (s, .fault f)
  | .refused r => (s, .refused r)

/-! ## Phases -/

/-- The engine moves to a phase. -/
def State.toPhase (s : State) (p : EngPhase) (stalled : Bool) : State := { s with eng := { s.eng with phase := p, stalled := stalled } }

/-- A tick without progress (R111). -/
def State.stall (s : State) : State := { s with eng := { s.eng with stalled := true } }

/-- The core is refused or faulted (R14, R573). -/
def State.setStatus (s : State) (st : Status) : State := { s with driver := { s.driver with status := st } }

/-- A refused encoding has no effect, its prefixes none either (R410). The tick has taken a byte, so it is no stall (R43, R111), which is the model's reading
(log 45). -/
def State.refuseEncoding (s : State) (r : Refusal) : State :=
  { s with pfx := Pfx.clear, eng := { s.eng with stalled := false } }.setStatus (.refused r)

/-- Executing(0) of an operation (R496). An encoding the spec refuses is refused here, before any effect, and does not start executing (R410). -/
def State.startOp (s : State) (op : EngOp) : State :=
  let s1 := { s with eng := ⟨.executing 0, op, s.eng.bytes, false, some s.arch, [], 0, none, false, none, 0⟩ }
  match s1.runOp with
  | .next _ => s1
  | .fault f => s.setStatus (.fault f)
  | .refused r => s.refuseEncoding r

/-- The entry sequence of a boundary event, its own schedule (R495), with the boundary's latches cleared (R461). -/
def State.startEntry (s : State) (ev : Event) (sip : Word) : State :=
  let s1 := { (s.acceptEvent ev).endBoundary with pfx := Pfx.clear, waiting := false, entry := none }
  { s1 with eng := { s1.eng with bytes := [] } }.startOp (.entry ev sip)

/-- The engine between instructions. -/
def State.toFetching (s : State) : State := { s with eng := Engine.atReset }

/-- A micro-step with an access still to come has completed: what the instruction writes before that access takes effect (R47, R498). R500 leaves open which of
several internal micro-steps before an access makes these writes; the model makes them with the first micro-step to complete once the access before them
has been answered: that access's own, or, before the first access, the first internal one (log 2). -/
def State.commitPart (s t : State) : State :=
  match t.port.saved with
  | some a => { s.withArch a with eng := { s.eng with start := some s.base } }
  | none => s

/-- An instruction has reached Complete: it is counted (R572). -/
def State.toComplete (s : State) : State :=
  { s with driver := { s.driver with instructions := s.driver.instructions + 1 } }.toPhase .complete false

/-- Take the final state `t` of the operation at the end of its last micro-step (R47, R498). After a boundary event's entry the engine fetches (R496); WAIT may
wait; a repeated string instruction that is interrupted is not complete, and not counted, but its event is entered from Complete (R463, R495; log 20). -/
def State.commitOp (s t : State) : State :=
  let u := { t with port := Port.direct, eng := { t.eng with start := none } }
  match s.eng.op with
  | .entry _ _ => u.toFetching
  | .halt => u.toFetching
  | .none => u.toFetching
  | .instr _ =>
    if u.waiting then u.toPhase u.eng.phase false
    else
      match u.entry with
      | some _ => { u with eng := { u.eng with op := .none } }.toPhase .complete false
      | none => u.toComplete

/-! ## Fetching and Decoding (R496, R497) -/

/-- Take one byte from the queue: IP moves past it (R25, R108, R112). -/
def State.popByte (s : State) (b : Byte) (q : Queue) : State :=
  { s with biu := { s.biu with queue := q }, ip := s.ip + 1, eng := { s.eng with bytes := s.eng.bytes ++ [b] } }

/-- Decode the bytes taken so far: a prefix is recorded, a whole instruction starts executing, else more bytes are needed (R496). -/
def State.decodeBytes (s : State) : State :=
  match decode s.eng.bytes with
  | .reject _ => s.toPhase .decoding false
  | .ok i _ =>
    if isPrefixInstr i then
      match exec i s with
      | .next t => { t with eng := { t.eng with phase := .fetching, stalled := false, bytes := [] } }
      | .fault f => s.setStatus (.fault f)
      | .refused r => s.refuseEncoding r
    else s.startOp (.instr i)

/-- One evaluation in Fetching or Decoding: at most one byte a tick; an empty queue stalls (R496, R497). -/
def State.stepFetch (s : State) : State :=
  match queuePop s.biu.queue with
  | none => s.stall
  | some (b, q) => (s.startInstr.popByte b q).decodeBytes

/-! ## Executing (R496, R500) -/

/-- A delivery has come: it becomes the next answer, and its micro-step is done (R95, R99). -/
def State.absorb (s : State) (d : Delivery) : State :=
  let e := s.eng
  { s with eng := { e with answers := e.answers ++ [.byte d], reply := none, gap := 0 } }

/-- Micro-step `k` of the operation, whose run is `t`, is done, and it is not the last; the writes before the next access, if not yet made, are made with it
(log 2). -/
def State.advanceStep (s t : State) (k : Nat) : State := (s.commitPart t).toPhase (.executing (k + 1)) false

/-- A micro-step that is not the completion of an access: an internal step, the request of the next access, or the end. `t` is the operation's run. -/
def State.microStep (s t : State) (k : Nat) : State :=
  let e := s.eng
  match t.port.pending with
  | some (.access a) =>
    if e.gap < s.internalSteps t e.accesses false then { s with eng := { e with gap := e.gap + 1 } }.advanceStep t k
    else { s with eng := { e with request := some a } }.stall
  | some .poll => s.stall
  | none =>
    if e.gap + 1 < s.internalSteps t e.accesses true + s.penaltySteps t.port then
      { s with eng := { e with gap := e.gap + 1 } }.advanceStep t k
    else s.commitOp t

/-- The micro-step of an access has completed; if it was the last one, the operation is complete. -/
def State.accessDone (s t : State) (k : Nat) : State :=
  let e := s.eng
  match t.port.pending with
  | some _ => s.advanceStep t k
  | none =>
    if 0 < s.internalSteps t e.accesses true + s.penaltySteps t.port then s.advanceStep t k
    else s.commitOp t

/-- One recognition point of WAIT (R398, R467). An event's entry starts on this tick, from Executing: R467 enters it here, and R495 speaks of Complete
(log 44). -/
def State.waitTick (s : State) : State :=
  if s.intr.testPin then { s with waiting := false }.toComplete
  else
    match s.wakeEvent with
    | some ev => s.startEntry ev (s.pfx.start.getD s.ip)
    | none => s.toPhase s.eng.phase false

/-- One recognition point of a halted core (R464). An event's entry starts on this tick, from Executing: R464 enters it here, and R495 speaks of Complete
(log 44). -/
def State.haltTick (s : State) : State :=
  match s.wakeEvent with
  | some ev => s.startEntry ev s.ip
  | none => s.toPhase s.eng.phase false

/-- One evaluation in Executing(k) (R496). -/
def State.stepExec (s : State) (k : Nat) : State :=
  if s.eng.op = .halt then s.haltTick
  else if s.waiting then s.waitTick
  else
    match s.eng.reply with
    | some d =>
      match (s.absorb d).settle with
      | (s1, .next t) => s1.accessDone t k
      | (s1, .fault f) => s1.setStatus (.fault f)
      | (s1, .refused r) => s1.setStatus (.refused r)
    | none =>
      if s.eng.request.isSome then s.stall
      else
        match s.settle with
        | (s1, .next t) => s1.microStep t k
        | (s1, .fault f) => s1.setStatus (.fault f)
        | (s1, .refused r) => s1.setStatus (.refused r)

/-! ## Complete (R461, R496) -/

/-- Complete: the entry of the event that interrupted a repeated string instruction, or the boundary algorithm: an event's entry, a halt that stays, or the next
instruction (R461, R464, R496). -/
def State.stepComplete (s : State) : State :=
  match s.entry with
  | some e => s.startEntry e.event e.sip
  | none =>
    match s.boundaryEvent with
    | some ev => s.startEntry ev s.ip
    | none =>
      let s1 := { s.endBoundary with pfx := Pfx.clear }
      if s1.intr.halted then { s1 with eng := { Engine.atReset with phase := .executing 0, op := .halt } } else s1.toFetching

/-- `step_cycle()`: one evaluation of the engine (R496). -/
def State.stepCycle (s : State) : State :=
  match s.eng.phase with
  | .fetching => s.stepFetch
  | .decoding => s.stepFetch
  | .executing k => s.stepExec k
  | .complete => s.stepComplete

end Sys2Proof.Machine
end

