-- ==== Sys2Proof/Machine/Scheduler.lean ====
section
/-!
DEFINITION. The bus cycle scheduler (R85-R100): LOCK, who may be granted the bus, arbitration, and `advanceCycle`, the scheduler's contract of R93.
-/

namespace Sys2Proof.Machine

/-! ## LOCK (R98, R100, R451; log 26) -/

/-- Whether the engine is performing micro-steps. -/
def State.executing (s : State) : Bool :=
  match s.eng.phase with
  | .executing _ => true
  | .fetching => false
  | .decoding => false
  | .complete => false

/-- The engine once it has taken the delivery that waits for it, if one does. -/
def State.afterDelivery (s : State) : State :=
  match s.eng.reply with
  | some d => s.absorb d
  | none => s

/-- Whether the operation has a bus cycle still to finish. -/
def State.busCycleLeft (s : State) : Bool :=
  match s.afterDelivery.settle.2 with
  | .next t => t.port.pending.isSome
  | .fault _ => false
  | .refused _ => false

/-- Whether a LOCKed instruction is between its first micro-step and the end of its last bus cycle (R98); one without bus cycles, through its last micro-step. -/
def State.lockedInstr (s : State) : Bool :=
  s.pfx.lock && s.executing && (s.busCycleLeft || s.afterDelivery.eng.accesses == 0)

/-- The first INTA cycle is done and the second is not: no other requester is granted (R451). -/
def State.betweenInta (s : State) : Bool := s.eng.inta == 1

/-- An INTA cycle is on the bus. -/
def Bus.acknowledging (b : Bus) : Bool :=
  match b.cycle? with
  | some c => c.space == .inta
  | none => false

/-- The LOCK output: a LOCKed instruction (R98), or an INTA sequence from its first cycle through its second (R451). -/
def State.lockOut (s : State) : Bool := s.lockedInstr || s.betweenInta || s.bus.acknowledging

/-! ## Requests and arbitration (R89, R90, R113) -/

/-- Whether the engine flushes the queue on this tick: what its step of this tick, which comes after the grant (R571), does to a fetch in flight (R113, R115). -/
def State.flushDue (s : State) : Bool :=
  { s with biu := { s.biu with fetchInflight := true, fetchDiscard := false } }.stepCycle.biu.fetchDiscard

/-- Fetch issue condition (R113): room for one more byte beyond the one in flight (FETCH_POLICY), not halted, and no flush on this tick. -/
def State.fetchEligible (s : State) : Bool :=
  decide (s.biu.queue.len + (if s.biu.fetchInflight then 1 else 0) + s.cfg.fetchFree ≤ s.cfg.qCap) && !s.intr.halted && !s.flushDue && !s.betweenInta

/-- DMA and refresh are held off under LOCK, which covers the time between the INTA cycles (R90, R98, R451). -/
def State.dmaHeld (s : State) : Bool := s.lockOut && s.cfg.lockBlocksDma

/-- The lowest channel with a DMA request (R90). -/
def State.dmaChannel (s : State) : Option Nat := (List.range s.dmaChannels).find? fun ch => (s.dmaReq ch).isSome

/-- The eligible requester of a kind, if there is one (R89). -/
def State.candidate (s : State) (k : ReqKind) : Option Requester :=
  match k with
  | .fetch => if s.fetchEligible then some .fetch else none
  | .operand => if s.eng.request.isSome && !s.eng.granted then some .operand else none
  | .dma => if s.dmaHeld then none else s.dmaChannel.map Requester.dma
  | .refresh => if s.dmaHeld then none else s.refreshReq.map fun _ => Requester.refresh

/-- The eligible requester of the highest rank in ARB_ORDER (R90). -/
def State.arbitrate (s : State) : Option Requester := s.cfg.arbOrder.findSome? s.candidate

/-! ## Granting the bus (R87-R93) -/

/-- A channel's request has been granted: the side that made it drops it, and the channel is acknowledged (R42; log 38). -/
def State.acknowledge (s : State) (ch : Nat) : State :=
  let t :=
    match s.hostDma ch with
    | some _ => { s with hostLines := { s.hostLines with dma := s.hostLines.dma.set ch none } }
    | none => { s with devtm := { s.devtm with dreq := s.devtm.dreq.set ch none } }
  { t with devtm := { t.devtm with dack := ch :: t.devtm.dack } }

/-- The refresh request has been granted: the side that made it drops it (log 38). -/
def State.acknowledgeRefresh (s : State) : State :=
  match s.hostLines.refresh with
  | some _ => { s with hostLines := { s.hostLines with refresh := none } }
  | none => { s with devtm := { s.devtm with rfq := none } }

/-- T1 of a DMA cycle: a write carries the device's byte, a free value (R97). -/
def State.startDma (s : State) (ch : Nat) (q : DmaReq) : State :=
  match q.dir with
  | .read => s.startBus .memory .read q.addr 0#8 (.dma ch)
  | .write =>
    let v := s.drawBusByte
    v.2.startBus .memory .write q.addr v.1 (.dma ch)

/-- Grant the bus to a requester (R89, R93): a fetch is in flight from now on; a DMA channel or the refresh requester has its request served. The request line
falls and the acknowledge rises before WAITS reads the device timing model for this cycle, which is the model's choice (R42, R93; log 42).
The data field of a read holds 00h until T3 makes it valid (R41), which is the model's choice too (log 49). -/
def State.startCycle (s : State) (r : Requester) : State :=
  match r with
  | .fetch =>
    { s with biu := { s.biu with fetchInflight := true } }.startBus .memory .read (phys s.segs.cs s.biu.pfp) 0#8 r
  | .operand =>
    match s.eng.request with
    | some q => { s with eng := { s.eng with granted := true } }.startBus q.space q.dir q.addr q.data r
    | none => { s with bus := .idle }
  | .dma ch =>
    match s.dmaReq ch with
    | some q => (s.acknowledge ch).startDma ch q
    | none => { s with bus := .idle }
  | .refresh =>
    match s.refreshReq with
    | some a => s.acknowledgeRefresh.startBus .memory .read a 0#8 r
    | none => { s with bus := .idle }

/-- A grant point: the winner's T1, or Idle (R87, R90). -/
def State.grant (s : State) : State :=
  match s.arbitrate with
  | some r => s.startCycle r
  | none => { s with bus := .idle }

/-- `advance_cycle()`: the bus state machine moves by one tick (R87, R93). -/
def State.advanceCycle (s : State) : State :=
  let s1 := s.stepDevices
  match s1.bus with
  | .idle => s1.grant
  | .t1 c => { s1 with bus := .t2 c }
  | .t2 c => s1.enterT3 c
  | .t3 c =>
    if 0 < c.waitsLeft then { s1 with bus := .tw { c with waitsLeft := c.waitsLeft - 1 } }
    else { s1.commitTransfer c with bus := .t4 c }
  | .tw c =>
    if 0 < c.waitsLeft then { s1 with bus := .tw { c with waitsLeft := c.waitsLeft - 1 } }
    else { s1.commitTransfer c with bus := .t4 c }
  | .t4 c => { s1.completeCycle c with bus := .idle }.grant

end Sys2Proof.Machine
end

