-- ==== Sys2Proof/Machine/Validator.lean ====
section
/-!
DEFINITION. The serial validator harness (80_validator.md, R540-R557): snapshots and their comparison, frames, exchanges with retry and
resynchronisation, and the session operations. Nothing here changes the core, the bus or the queue (R540). The reference hardware is outside the machine:
what it and the line do stands in the session's transport (log 27).
-/

namespace Sys2Proof.Machine

/-! ## Snapshots (R548) -/

/-- Name of a bus phase. -/
def Bus.phaseName (b : Bus) : PhaseName :=
  match b with
  | .idle => .idle
  | .t1 _ => .t1
  | .t2 _ => .t2
  | .t3 _ => .t3
  | .tw _ => .tw
  | .t4 _ => .t4

/-- The data of a cycle inside its valid window: from T3 on a read, from T2 on a write; a halt cycle transfers none (R41, R100). -/
def Bus.validData (b : Bus) : Option Byte :=
  let whenData (c : Cycle) : Option Byte := if c.space == .halt then none else some c.data
  match b with
  | .idle => none
  | .t1 _ => none
  | .t2 c => if c.dir == .write then whenData c else none
  | .t3 c => whenData c
  | .tw c => whenData c
  | .t4 c => whenData c

/-- The model's snapshot for a tick, from the bus state after the tick (R548, R86); a further name of CTRL_SIGNALS has its uninterpreted value (log 27). -/
def State.snapshot (s : State) : Snapshot :=
  ⟨s.bus.cycle?.map (·.addr), s.bus.validData,
    ⟨s.bus.phaseName, s.bus.cycle?.map (·.dir), s.bus.cycle?.map (·.space), s.lockOut,
      s.cfg.validator.ctrlSignals.map fun n => (n, Config.ctrlSignal n s.bus)⟩⟩

/-- A further control signal by name. -/
def Ctrl.value (c : Ctrl) (name : String) : Option Nat := (c.extra.find? fun p => p.1 == name).map (·.2)

/-- `compare(sw, hw)`: the differing categories (R548). -/
def compareSnapshots (names : List String) (sw hw : Snapshot) : List Category :=
  (if sw.addr = hw.addr then [] else [.address]) ++ (if sw.data = hw.data then [] else [.data]) ++
  (if sw.ctrl.phase = hw.ctrl.phase then [] else [.control "phase"]) ++ (if sw.ctrl.dir = hw.ctrl.dir then [] else [.control "dir"]) ++
  (if sw.ctrl.space = hw.ctrl.space then [] else [.control "space"]) ++ (if sw.ctrl.lock = hw.ctrl.lock then [] else [.control "lock"]) ++
  (names.filter fun n => sw.ctrl.value n != hw.ctrl.value n).map .control

/-! ## Frames and exchanges (R543-R545) -/

/-- CMD_CODE (R545). -/
def cmdCodeOf (c : CmdCodes) (cmd : Cmd) : Byte :=
  match cmd with
  | .reset => c.reset
  | .step => c.step
  | .readBusState => c.readBusState
  | .writeMemory => c.writeMemory

/-- `n` bytes of a length, the low byte first. A length that does not fit is kept modulo 256^n, which is the model's choice (R543; log 40). -/
def lengthBytes : Nat → Nat → List Byte
  | 0, _ => []
  | n + 1, v => BitVec.ofNat 8 v :: lengthBytes n (v / 256)

/-- A request frame: command, payload length, payload, checksum (R543). -/
def requestFrame (p : ValidatorParams) (cmd : Cmd) (payload : List Byte) : List Byte :=
  let code := cmdCodeOf p.cmdCode cmd
  let len := lengthBytes p.lenW payload.length
  code :: ((if p.lenLittleEndian then len else len.reverse) ++ payload ++ Config.checksum code payload.length payload)

/-- The payload of a command the validator sends by itself: `step` carries the tick count 1 (R545; log 27). -/
def cmdPayload (cmd : Cmd) : List Byte :=
  match cmd with
  | .reset => []
  | .step => [1#8]
  | .readBusState => []
  | .writeMemory => []

/-- How an exchange ends (R551): a good response with its snapshot, a failure, or the caller's abort (R553). -/
inductive Exchange where
  | good (snapshot : Option Snapshot)
  | failed
  | aborted
  deriving DecidableEq, Repr

/-- Judge a reply (R544, R551): a good response has status ok and, exactly for `read-bus-state`, a snapshot. -/
def judgeReply (p : ValidatorParams) (cmd : Cmd) (r : Reply) : Exchange :=
  match r with
  | .response st snap =>
    if st = p.statusCode.ok ∧ snap.isSome = (cmd == .readBusState) then .good snap else .failed
  | .timeout => .failed
  | .malformed => .failed
  | .badChecksum => .failed
  | .abort => .aborted

/-! ## The transport's operations (R542) -/

/-- `send(frame)`: the frame goes out unless the line times out or the caller aborts; with no outcome scripted it goes out (log 27). -/
def Link.send (l : Link) (frame : List Byte) : LinkResult × Link :=
  match l.sends with
  | [] => (.ok, { l with sent := l.sent ++ [frame] })
  | .ok :: rest => (.ok, { l with sends := rest, sent := l.sent ++ [frame] })
  | .timeout :: rest => (.timeout, { l with sends := rest })
  | .abort :: rest => (.abort, { l with sends := rest })

/-- `receive(deadline)`: the next reply; with none scripted the deadline passes. -/
def Link.receive (l : Link) : Reply × Link :=
  match l.replies with
  | r :: rest => (r, { l with replies := rest })
  | [] => (.timeout, l)

/-- `reset()` of the reference device; with no outcome scripted it is done. -/
def Link.reset (l : Link) : LinkResult × Link :=
  match l.resets with
  | r :: rest => (r, { l with resets := rest })
  | [] => (.ok, l)

/-- One exchange on a link: send, then receive (R551). -/
def Link.exchange (p : ValidatorParams) (cmd : Cmd) (payload : List Byte) (l : Link) : Exchange × Link :=
  match l.send (requestFrame p cmd payload) with
  | (.timeout, l1) => (.failed, l1)
  | (.abort, l1) => (.aborted, l1)
  | (.ok, l1) =>
    let r := l1.receive
    (judgeReply p cmd r.1, r.2)

/-- One exchange; the null transport does no I/O (R551, R556). -/
def exchange (p : ValidatorParams) (cmd : Cmd) (payload : List Byte) (t : Transport) : Exchange × Transport :=
  match t with
  | .null => (.good none, .null)
  | .serial l =>
    let r := l.exchange p cmd payload
    (r.1, .serial r.2)

/-- Firmware brings the reset hardware forward to the current tick, by means that are OPEN (R551; log 27). -/
def Link.bringForward (l : Link) : LinkResult × Link :=
  match l.resyncs with
  | r :: rest => (if r then .ok else .timeout, { l with resyncs := rest })
  | [] => (.timeout, l)

/-- `resync()`: the hardware is reset and brought forward; the software side needs no action (R551; log 27). -/
def resync (t : Transport) : LinkResult × Transport :=
  match t with
  | .null => (.ok, .null)
  | .serial l =>
    match l.reset with
    | (.ok, l1) =>
      let r := l1.bringForward
      (r.1, .serial r.2)
    | (.timeout, l1) => (.timeout, .serial l1)
    | (.abort, l1) => (.abort, .serial l1)

/-- `exchange_with_retry(cmd)` with `n` attempts left: a failed exchange is retried after a resynchronisation, whose own failure uses an attempt up;
`failed` is fatal (R551). After a resynchronisation that failed the next exchange follows without another one, which is the model's choice (log 50). -/
def exchangeRetry (p : ValidatorParams) (cmd : Cmd) : Nat → Transport → Exchange × Transport
  | 0, t => (.failed, t)
  | 1, t => exchange p cmd (cmdPayload cmd) t
  | n + 2, t =>
    match exchange p cmd (cmdPayload cmd) t with
    | (.good snap, t1) => (.good snap, t1)
    | (.aborted, t1) => (.aborted, t1)
    | (.failed, t1) =>
      match resync t1 with
      | (.ok, t2) => exchangeRetry p cmd (n + 1) t2
      | (.timeout, t2) => exchangeRetry p cmd n t2
      | (.abort, t2) => (.aborted, t2)

/-! ## Session operations (R546-R556) -/

/-- The session is lost: its log passes to the caller (R552). -/
def State.fatalSession (s : State) (n : Session) : State :=
  { s with session := none, driver := { s.driver with validation := .fatal, handedLog := n.log } }

/-- The session is aborted in the middle of a comparison: no log entry for the tick (R553). -/
def State.abortedSession (s : State) (n : Session) (t : Transport) : State :=
  { s with session := some { n with conn := t, status := .aborted }, driver := { s.driver with validation := .aborted } }

/-- Compare the tick with the hardware's snapshot: a match, or a divergence recorded, which degrades the session (R547-R550). -/
def State.recordComparison (s : State) (n : Session) (hw : Snapshot) : State :=
  let sw := s.snapshot
  let d := compareSnapshots s.cfg.validator.ctrlSignals sw hw
  let n1 := { n with lastHw := some hw, seq := n.seq + 1 }
  if d = [] then { s with session := some n1, driver := { s.driver with validation := .matched } }
  else
    let r : DivergenceRecord := ⟨n.seq, sw, hw, d⟩
    { s with session := some { n1 with log := n.log ++ [r], status := .degraded }, driver := { s.driver with validation := .diverged r } }

/-- `validate_cycle` for an open session (R547, R551, R556). -/
def State.validateCycle (s : State) (n : Session) : State :=
  match n.conn with
  | .null => { s with session := some { n with seq := n.seq + 1 }, driver := { s.driver with validation := .matched } }
  | .serial _ =>
    let p := s.cfg.validator
    match exchangeRetry p .step p.maxAttempts n.conn with
    | (.failed, _) => s.fatalSession n
    | (.aborted, t) => s.abortedSession n t
    | (.good _, t1) =>
      match exchangeRetry p .readBusState p.maxAttempts t1 with
      | (.failed, _) => s.fatalSession n
      | (.aborted, t) => s.abortedSession n t
      | (.good none, _) => s.fatalSession n
      | (.good (some hw), t2) => s.recordComparison { n with conn := t2 } hw

/-- Whether a session of that status compares (R571, R574). -/
def SessionStatus.compares (st : SessionStatus) : Bool :=
  match st with
  | .opened => true
  | .degraded => true
  | .paused => false
  | .closed => false
  | .aborted => false

/-- The session that compares, if there is one and validator mode is compiled and enabled (R571, R574, R576; log 41). -/
def State.comparing (s : State) : Option Session :=
  match s.cfg.validatorMode with
  | .enabled => s.session.filter fun n => n.status.compares
  | .disabled => none
  | .notCompiled => none

/-- The tick's comparison; validation is off without a session that compares (R571, R573). -/
def State.validate (s : State) : State :=
  match s.comparing with
  | some n => s.validateCycle n
  | none => { s with driver := { s.driver with validation := .off } }

/-- How `begin_session` ends (R546), or that there is no validator mode to begin one in (R576; log 41). -/
inductive Begin where
  | disabled
  | connectionError
  | started (s : State)
  deriving DecidableEq, Repr

/-- Write the memory image with write-memory exchanges; none if one fails (R546). -/
def writeImage (p : ValidatorParams) : List (List Byte) → Transport → Option Transport
  | [], t => some t
  | b :: rest, t =>
    match exchange p .writeMemory b t with
    | (.good _, t1) => writeImage p rest t1
    | (.failed, _) => none
    | (.aborted, _) => none

/-- The link is up: one reset exchange, not retried, then the image's exchanges; the model is reset with the hardware (R546, R493). A refused or faulted core
runs again (log 47), and an earlier session is replaced, its log dropped (log 48): both the model's choices. -/
def State.connect (s : State) (t : Transport) (image : List (List Byte)) : Begin :=
  match exchange s.cfg.validator .reset (cmdPayload .reset) t with
  | (.failed, _) => .connectionError
  | (.aborted, _) => .connectionError
  | (.good _, t1) =>
    match writeImage s.cfg.validator image t1 with
    | none => .connectionError
    | some t2 => .started { s.applyReset with session := some ⟨t2, 0, none, [], .opened, .opened, 0⟩ }

/-- `begin_session(connection)` (R546), where validator mode is compiled and enabled (R576); `conn` is none if the link cannot be opened. -/
def State.beginSession (s : State) (conn : Option Transport) (image : List (List Byte)) : Begin :=
  match s.cfg.validatorMode, conn with
  | .enabled, some t => s.connect t image
  | .enabled, none => .connectionError
  | .disabled, _ => .disabled
  | .notCompiled, _ => .disabled

/-- `close()`: the connection is destroyed and the log handed to the caller (R554). -/
def State.closeSession (s : State) : State :=
  match s.session with
  | none => s
  | some n => { s with session := some { n with status := .closed, conn := .null }, driver := { s.driver with handedLog := n.log } }

/-- `abort()` between ticks (R553). -/
def State.abortSession (s : State) : State :=
  match s.session with
  | none => s
  | some n => { s with session := some { n with status := .aborted } }

/-- `pause()`, for an Open or Degraded session (R554). -/
def State.pauseSession (s : State) : State :=
  match s.session with
  | none => s
  | some n =>
    match n.status with
    | .opened => { s with session := some { n with pausedFrom := n.status, status := .paused } }
    | .degraded => { s with session := some { n with pausedFrom := n.status, status := .paused } }
    | .paused => s
    | .closed => s
    | .aborted => s

/-- Resynchronise, trying at most `n` times (R551, R554; log 27). -/
def resyncRetry : Nat → Transport → LinkResult × Transport
  | 0, t => (.timeout, t)
  | n + 1, t =>
    match resync t with
    | (.ok, t1) => (.ok, t1)
    | (.timeout, t1) => resyncRetry n t1
    | (.abort, t1) => (.abort, t1)

/-- `resume()`: resynchronise, then the status of before the pause; a link that never resynchronises is fatal to the session, an abort ends it (R551, R553,
R554). -/
def State.resumeSession (s : State) : State :=
  match s.session with
  | none => s
  | some n =>
    match n.status with
    | .paused =>
      match resyncRetry s.cfg.validator.maxAttempts n.conn with
      | (.ok, t) => { s with session := some { n with conn := t, status := n.pausedFrom } }
      | (.timeout, _) => s.fatalSession n
      | (.abort, t) => { s with session := some { n with conn := t, status := .aborted } }
    | .opened => s
    | .degraded => s
    | .closed => s
    | .aborted => s

/-- The log, where reading it is allowed: Paused, Closed, Aborted, or after the session is gone (R554). -/
def State.readLog (s : State) : Option (List DivergenceRecord) :=
  match s.session with
  | none => some s.driver.handedLog
  | some n =>
    match n.status with
    | .paused => some n.log
    | .closed => some n.log
    | .aborted => some n.log
    | .opened => none
    | .degraded => none

/-- An instruction boundary both sides have reached, for a session that compares (R541, R551). -/
def State.noteCheckpoint (s : State) : State :=
  match s.comparing with
  | some n => { s with session := some { n with checkpoint := n.seq } }
  | none => s

end Sys2Proof.Machine
end

