-- ==== Sys2Proof/Machine/Driver.lean ====
section
/-!
DEFINITION. The emulation driver (R570-R576): `tick` is one step of the cycle level (R8), one clock period.
-/

namespace Sys2Proof.Machine

/-- A refused or faulted core (R573). -/
def Status.stopped (st : Status) : Bool :=
  match st with
  | .running => false
  | .halted => false
  | .waiting => false
  | .refused _ => true
  | .fault _ => true

/-- The status of a core that has not stopped (R573). -/
def State.liveStatus (s : State) : Status :=
  if s.intr.halted then .halted else if s.waiting then .waiting else .running

/-- The status after the tick. -/
def State.updateStatus (s : State) : State := if s.driver.status.stopped then s else s.setStatus s.liveStatus

/-- Steps 1 to 4 of R571: the inputs, reset, the bus, then the engine. A scheduler fault leaves no engine step. -/
def State.tickCore (s : State) : State :=
  let s1 := s.sampleInputs
  if s1.intr.resetLine then s1.applyReset
  else
    let s2 := s1.advanceCycle
    if s2.driver.status.stopped then s2 else s2.stepCycle

/-- The engine is performing the entry sequence of a boundary event. -/
def State.entering (s : State) : Bool :=
  match s.eng.op with
  | .entry _ _ => true
  | .none => false
  | .instr _ => false
  | .halt => false

/-- Whether the tick from `s` to `t` reached an instruction boundary (R16): an instruction has completed or been interrupted, or an entry has begun during WAIT or
a halt, or has ended. A reset abandons an instruction and reaches none. -/
def reachedBoundary (s t : State) : Bool :=
  !t.intr.resetLine && (t.eng.phase == .complete || (s.entering && !t.entering) || (!s.entering && t.entering && s.eng.phase != .complete))

/-- `step()` of the driver (R570, R571): one tick. A refused or faulted core keeps its status and changes nothing, and no validation is made (R573; log 33). -/
def State.tick (s : State) : State :=
  if s.driver.status.stopped then { s with driver := { s.driver with validation := .off } }
  else
    let s1 := s.tickCore.updateStatus
    let s2 := { s1 with driver := { s1.driver with cycles := s1.driver.cycles + 1 } }.validate
    if reachedBoundary s s2 then s2.noteCheckpoint else s2

/-- `n` ticks. -/
def State.ticks : Nat → State → State
  | 0, s => s
  | n + 1, s => State.ticks n s.tick

/-- StepOutcome (R573). -/
structure StepOutcome where
  cycles : Nat
  instructions : Nat
  bus : Bus
  phase : EngPhase
  stalled : Bool
  validation : Validation
  status : Status
  deriving DecidableEq, Repr

/-- The outcome of the last tick (R573). -/
def State.outcome (s : State) : StepOutcome :=
  ⟨s.driver.cycles, s.driver.instructions, s.bus, s.eng.phase, s.eng.stalled, s.driver.validation, s.driver.status⟩

end Sys2Proof.Machine
end

