-- ==== Sys2Proof/Safety.lean ====
section
/-!
DEFINITION. The terms in which claims are made: the invariant both levels keep, where an operand is and what it holds, and what an instruction leaves
unchanged. Nothing here has an effect.
-/

namespace Sys2Proof.Machine

/-! ## The invariant -/

/-- The queue is a circular buffer of Q_CAP bytes whose length is explicit and never above the capacity, counting the byte in flight (R40, R105, R107). -/
structure QueueInv (s : State) : Prop where
  capacity : s.biu.queue.buf.length = s.cfg.qCap
  head : s.biu.queue.head < s.cfg.qCap
  tail : s.biu.queue.tail = (s.biu.queue.head + s.biu.queue.len) % s.cfg.qCap
  room : s.biu.queue.len + (if s.biu.fetchInflight then 1 else 0) ≤ s.cfg.qCap
  policy : 1 ≤ s.cfg.fetchFree

/-- Whether the running bus cycle is a code fetch. -/
def State.fetchOnBus (s : State) : Bool :=
  match s.bus.cycle? with
  | some c => c.req == .fetch
  | none => false

/-- The engine is in the middle of an operation, not at one of the repeating micro-steps of WAIT and HLT (R495). -/
def State.midOp (s : State) : Bool := s.executing && !s.waiting && s.eng.op != .halt

/-- The offset of the next byte to decode: IP, or, in the middle of an operation, IP as it stood when the operation started (R112; log 2). -/
def State.nextOffset (s : State) : Word := if s.midOp then s.base.ip else s.ip

/-- What holds in every state a run reaches: memory in its canonical form (log 4), the reserved FLAGS bits hardwired (R27), those an operation started from too
(log 2), the queue in shape and the scheduler never at fault (R107), a fetch in flight exactly while the bus runs one (R40), its byte dropped only then (R114), the
fetch pointer as far past the next byte to decode as the queue is long (R112), and no replay under way (log 2). -/
structure State.Inv (s : State) : Prop where
  mem : Memory.wf s.mem = true
  flags : flagsImage s.flags = s.flags
  start : ∀ a, s.eng.start = some a → flagsImage a.flags = a.flags
  queue : QueueInv s
  inflight : s.biu.fetchInflight = s.fetchOnBus
  discard : s.biu.fetchDiscard = true → s.biu.fetchInflight = true
  next : s.biu.pfp - BitVec.ofNat 16 s.biu.queue.len = s.nextOffset
  noFault : s.driver.status ≠ .fault .queueOverrun
  direct : s.port.replay = false

/-! ## Operands and memory as a claim sees them -/

/-- The state is at the instruction level: accesses act at once (log 2). -/
def State.Direct (s : State) : Prop := s.port.replay = false

/-- Address of a byte in memory. -/
def addrOf (seg o : Word) : Nat := (phys seg o).toNat

/-- The byte at `seg:o`. -/
def State.byteAt (s : State) (seg o : Word) : Byte := Memory.read s.mem (addrOf seg o)

/-- The word at `seg:o`, the high byte at the next offset of the segment (R13, R74, R76). -/
def State.wordAt (s : State) (seg o : Word) : Word := s.byteAt seg (o + 1) ++ s.byteAt seg o

/-- A region a byte of which reads as memory and has no other effect: RAM and ROM (R82, R84). -/
def plainKind (k : RegionKind) : Bool :=
  match k with
  | .ram => true
  | .rom => true
  | .mmio _ => false
  | .none => false

/-- `seg:o` is RAM or ROM. -/
def State.plainAt (s : State) (seg o : Word) : Prop := plainKind (s.cfg.memKind (phys seg o)) = true

/-- Both bytes of the word at `seg:o` are RAM or ROM. -/
def State.plainWordAt (s : State) (seg o : Word) : Prop := s.plainAt seg o ∧ s.plainAt seg (o + 1)

/-- What the byte at `seg:o`, RAM or ROM, holds after `v` is written to it: a write to ROM is ignored (R82). -/
def State.storedByte (s : State) (seg o : Word) (v : Byte) : Byte :=
  match s.cfg.memKind (phys seg o) with
  | .ram => v
  | .rom => s.byteAt seg o
  | .mmio _ => s.byteAt seg o
  | .none => s.byteAt seg o

/-- What the word at `seg:o` holds after `v` is written to it. -/
def State.storedWord (s : State) (seg o : Word) (v : Word) : Word :=
  s.storedByte seg (o + 1) (highByte v) ++ s.storedByte seg o (lowByte v)

/-- What a byte operand's location holds. -/
def State.valueAt8 (s : State) (l : Loc Reg8) : Byte :=
  match l with
  | .reg r => s.reg8 r
  | .mem g o => s.byteAt g o

/-- What a word operand's location holds. -/
def State.valueAt16 (s : State) (l : Loc Reg16) : Word :=
  match l with
  | .reg r => s.reg16 r
  | .mem g o => s.wordAt g o

/-- A byte operand is a register, RAM or ROM. -/
def State.plainLoc8 (s : State) (l : Loc Reg8) : Prop :=
  match l with
  | .reg _ => True
  | .mem g o => s.plainAt g o

/-- A word operand is a register, RAM or ROM. -/
def State.plainLoc16 (s : State) (l : Loc Reg16) : Prop :=
  match l with
  | .reg _ => True
  | .mem g o => s.plainWordAt g o

/-- What a byte operand's location holds after `v` is written to it. -/
def State.stored8 (s : State) (l : Loc Reg8) (v : Byte) : Byte :=
  match l with
  | .reg _ => v
  | .mem g o => s.storedByte g o v

/-- What a word operand's location holds after `v` is written to it. -/
def State.stored16 (s : State) (l : Loc Reg16) (v : Word) : Word :=
  match l with
  | .reg _ => v
  | .mem g o => s.storedWord g o v

/-- What an instruction's claim starts from; the invariant has each of these. -/
structure State.Ready (s : State) : Prop where
  direct : s.Direct
  mem : Memory.wf s.mem = true
  flags : flagsImage s.flags = s.flags

/-! ## Frames -/

/-- The six status flags (R26). -/
def statusFlags : List Flag := [.cf, .pf, .af, .zf, .sf, .ovf]

/-- What an instruction may change: word registers, byte registers, segment registers, flags, memory addresses. -/
structure Dests where
  words : List Reg16 := []
  bytes : List Reg8 := []
  segs : List SReg := []
  flags : List Flag := []
  mem : List Nat := []
  deriving DecidableEq, Repr

/-- The addresses of the word at `seg:o`. -/
def wordAddrs (seg o : Word) : List Nat := [addrOf seg o, addrOf seg (o + 1)]

/-- What a write to a byte operand may change. -/
def dest8 (l : Loc Reg8) (fs : List Flag) : Dests :=
  match l with
  | .reg r => { bytes := [r], flags := fs }
  | .mem g o => { flags := fs, mem := [addrOf g o] }

/-- What a write to a word operand may change. -/
def dest16 (l : Loc Reg16) (fs : List Flag) : Dests :=
  match l with
  | .reg r => { words := [r], flags := fs }
  | .mem g o => { flags := fs, mem := wordAddrs g o }

/-- Everything but general and segment registers, FLAGS, IP, memory, the older code bytes of R125 and the count of free values. -/
def State.others (s : State) : State :=
  { s with regs := ⟨0, 0, 0, 0, 0, 0, 0, 0⟩, segs := ⟨0, 0, 0, 0⟩, flags := 0, ip := 0, mem := [], stale := [], draws := 0 }

/-- The same without the queue and the fetch race, which a flush changes (R109). -/
def State.othersBeyondFlush (s : State) : State := { s.others with biu := ⟨⟨[], 0, 0, 0⟩, 0, false, false, false⟩, fetchRace := none }

/-- `t` differs from `s` at most in what `d` names, in IP, and in what `State.others` leaves out. -/
structure RegFrame (s t : State) (d : Dests) : Prop where
  words : ∀ r, r ∉ d.words → (∀ b ∈ d.bytes, b.word ≠ r) → t.reg16 r = s.reg16 r
  bytes : ∀ b, b ∉ d.bytes → b.word ∉ d.words → t.reg8 b = s.reg8 b
  segs : ∀ r, r ∉ d.segs → t.seg r = s.seg r
  flags : ∀ f, f ∉ d.flags → t.flag f = s.flag f
  reserved : ∀ n, (∀ f : Flag, f.bit ≠ n) → t.flags.getLsbD n = s.flags.getLsbD n
  mem : ∀ a, a ∉ d.mem → Memory.read t.mem a = Memory.read s.mem a

/-- The frame of an instruction that falls through: nothing but what `d` names changes, IP not either, and no other part of the machine. -/
structure Frame (s t : State) (d : Dests) : Prop where
  regs : RegFrame s t d
  ip : t.ip = s.ip
  others : t.others = s.others

/-- The frame of an instruction that redirects control to `target` and so flushes the queue, a fetch in flight being dropped (R109, R115, R350): nothing
else but what `d` names changes. -/
structure JumpFrame (s t : State) (d : Dests) (target : Word) : Prop where
  regs : RegFrame s t d
  ip : t.ip = target
  queue : t.biu = { s.biu with queue := { s.biu.queue with head := 0, tail := 0, len := 0 }, pfp := target, fetchDiscard := s.biu.fetchInflight }
  race : t.stale = [] ∧ t.fetchRace = none
  others : t.othersBeyondFlush = s.othersBeyondFlush

/-! ## Flags as their own rules describe them (R28-R33) -/

/-- An even number of 1 bits (R29). -/
def evenParity (b : Byte) : Bool := ((List.range 8).filter fun i => b.getLsbD i).length % 2 == 0

/-- SF, ZF and PF describe the result `r` (R29, R31, R32, R249). -/
structure ResultFlags {w : Nat} (t : State) (r : BitVec w) : Prop where
  sf : t.flag .sf = r.msb
  zf : t.flag .zf = decide (r = 0#w)
  pf : t.flag .pf = evenParity (r.setWidth 8)

/-- AF and OF describe the sum of `a`, `b` and a carry: out of bit 3 (R30), and a signed sum that does not fit (R33). -/
structure SumAux {w : Nat} (t : State) (a b : BitVec w) (c : Bool) : Prop where
  af : t.flag .af = decide (16 ≤ a.toNat % 16 + b.toNat % 16 + c.toNat)
  ovf : t.flag .ovf = decide (2 ^ (w - 1) ≤ a.toInt + b.toInt + c.toNat ∨ a.toInt + b.toInt + c.toNat < -2 ^ (w - 1))

/-- And CF the carry out of the top bit (R28). -/
structure SumFlags {w : Nat} (t : State) (a b : BitVec w) (c : Bool) : Prop extends SumAux t a b c where
  cf : t.flag .cf = decide (2 ^ w ≤ a.toNat + b.toNat + c.toNat)

/-- AF and OF describe `a` minus `b` minus a borrow: into bit 3 (R30), and a signed difference that does not fit (R33). -/
structure DiffAux {w : Nat} (t : State) (a b : BitVec w) (c : Bool) : Prop where
  af : t.flag .af = decide (a.toNat % 16 < b.toNat % 16 + c.toNat)
  ovf : t.flag .ovf = decide (2 ^ (w - 1) ≤ a.toInt - b.toInt - c.toNat ∨ a.toInt - b.toInt - c.toNat < -2 ^ (w - 1))

/-- And CF the borrow into the top bit (R28). -/
structure DiffFlags {w : Nat} (t : State) (a b : BitVec w) (c : Bool) : Prop extends DiffAux t a b c where
  cf : t.flag .cf = decide (a.toNat < b.toNat + c.toNat)

/-- CF and OF are cleared and the result flags set; AF is undefined, so nothing is said of it (R300). -/
structure LogicFlags {w : Nat} (t : State) (r : BitVec w) : Prop where
  cf : t.flag .cf = false
  ovf : t.flag .ovf = false
  result : ResultFlags t r

/-- A carry or borrow as a number of the operands' width. -/
def carryIn (w : Nat) (c : Bool) : BitVec w := if c then 1#w else 0#w

/-! ## The eight two-operand operations and their forms (R248) -/

/-- The operations of R248. -/
inductive AluOp where
  | add | or | adc | sbb | and | sub | xor | cmp
  deriving DecidableEq, Repr

/-- What the destination holds after: CMP writes nothing (R253-R257, R301-R303). -/
def AluOp.result {w : Nat} (op : AluOp) (d v : BitVec w) (c : Bool) : BitVec w :=
  match op with
  | .add => d + v
  | .or => d ||| v
  | .adc => d + v + carryIn w c
  | .sbb => d - v - carryIn w c
  | .and => d &&& v
  | .sub => d - v
  | .xor => d ^^^ v
  | .cmp => d

/-- The flags after, with `c` the CF of before. -/
def AluOp.Flags {w : Nat} (op : AluOp) (t : State) (d v : BitVec w) (c : Bool) : Prop :=
  match op with
  | .add => SumFlags t d v false ∧ ResultFlags t (d + v)
  | .or => LogicFlags t (d ||| v)
  | .adc => SumFlags t d v c ∧ ResultFlags t (d + v + carryIn w c)
  | .sbb => DiffFlags t d v c ∧ ResultFlags t (d - v - carryIn w c)
  | .and => LogicFlags t (d &&& v)
  | .sub => DiffFlags t d v false ∧ ResultFlags t (d - v)
  | .xor => LogicFlags t (d ^^^ v)
  | .cmp => DiffFlags t d v false ∧ ResultFlags t (d - v)

/-- What a byte form may change. -/
def AluOp.dest8 (op : AluOp) (l : Loc Reg8) : Dests :=
  match op with
  | .cmp => { flags := statusFlags }
  | .add | .or | .adc | .sbb | .and | .sub | .xor => Sys2Proof.Machine.dest8 l statusFlags

/-- What a word form may change. -/
def AluOp.dest16 (op : AluOp) (l : Loc Reg16) : Dests :=
  match op with
  | .cmp => { flags := statusFlags }
  | .add | .or | .adc | .sbb | .and | .sub | .xor => Sys2Proof.Machine.dest16 l statusFlags

/-- The effect of a byte form with destination `l` holding `d` and source `v`. -/
structure Alu8 (op : AluOp) (s t : State) (l : Loc Reg8) (d v : Byte) : Prop where
  value : t.valueAt8 l = s.stored8 l (op.result d v (s.flag .cf))
  flags : op.Flags t d v (s.flag .cf)
  frame : Frame s t (op.dest8 l)

/-- The effect of a word form with destination `l` holding `d` and source `v`. -/
structure Alu16 (op : AluOp) (s t : State) (l : Loc Reg16) (d v : Word) : Prop where
  value : t.valueAt16 l = s.stored16 l (op.result d v (s.flag .cf))
  flags : op.Flags t d v (s.flag .cf)
  frame : Frame s t (op.dest16 l)

/-- b+0 `op Eb, Gb`. -/
def AluOp.ebGb (op : AluOp) (e : Rm8) (g : Reg8) : Instr :=
  match op with
  | .add => .addEbGb e g
  | .or => .orEbGb e g
  | .adc => .adcEbGb e g
  | .sbb => .sbbEbGb e g
  | .and => .andEbGb e g
  | .sub => .subEbGb e g
  | .xor => .xorEbGb e g
  | .cmp => .cmpEbGb e g

/-- b+1 `op Ev, Gv`. -/
def AluOp.evGv (op : AluOp) (e : Rm16) (g : Reg16) : Instr :=
  match op with
  | .add => .addEvGv e g
  | .or => .orEvGv e g
  | .adc => .adcEvGv e g
  | .sbb => .sbbEvGv e g
  | .and => .andEvGv e g
  | .sub => .subEvGv e g
  | .xor => .xorEvGv e g
  | .cmp => .cmpEvGv e g

/-- b+2 `op Gb, Eb`. -/
def AluOp.gbEb (op : AluOp) (g : Reg8) (e : Rm8) : Instr :=
  match op with
  | .add => .addGbEb g e
  | .or => .orGbEb g e
  | .adc => .adcGbEb g e
  | .sbb => .sbbGbEb g e
  | .and => .andGbEb g e
  | .sub => .subGbEb g e
  | .xor => .xorGbEb g e
  | .cmp => .cmpGbEb g e

/-- b+3 `op Gv, Ev`. -/
def AluOp.gvEv (op : AluOp) (g : Reg16) (e : Rm16) : Instr :=
  match op with
  | .add => .addGvEv g e
  | .or => .orGvEv g e
  | .adc => .adcGvEv g e
  | .sbb => .sbbGvEv g e
  | .and => .andGvEv g e
  | .sub => .subGvEv g e
  | .xor => .xorGvEv g e
  | .cmp => .cmpGvEv g e

/-- b+4 `op AL, Ib`. -/
def AluOp.alIb (op : AluOp) (imm : Byte) : Instr :=
  match op with
  | .add => .addALIb imm
  | .or => .orALIb imm
  | .adc => .adcALIb imm
  | .sbb => .sbbALIb imm
  | .and => .andALIb imm
  | .sub => .subALIb imm
  | .xor => .xorALIb imm
  | .cmp => .cmpALIb imm

/-- b+5 `op AX, Iv`. -/
def AluOp.axIv (op : AluOp) (imm : Word) : Instr :=
  match op with
  | .add => .addAXIv imm
  | .or => .orAXIv imm
  | .adc => .adcAXIv imm
  | .sbb => .sbbAXIv imm
  | .and => .andAXIv imm
  | .sub => .subAXIv imm
  | .xor => .xorAXIv imm
  | .cmp => .cmpAXIv imm

/-- 80 /n and 82 /n `op Eb, Ib`. -/
def AluOp.ebIb (op : AluOp) (v : Enc) (e : Rm8) (imm : Byte) : Instr :=
  match op with
  | .add => .addEbIb v e imm
  | .or => .orEbIb v e imm
  | .adc => .adcEbIb v e imm
  | .sbb => .sbbEbIb v e imm
  | .and => .andEbIb v e imm
  | .sub => .subEbIb v e imm
  | .xor => .xorEbIb v e imm
  | .cmp => .cmpEbIb v e imm

/-- 81 /n `op Ev, Iv`. -/
def AluOp.evIv (op : AluOp) (e : Rm16) (imm : Word) : Instr :=
  match op with
  | .add => .addEvIv e imm
  | .or => .orEvIv e imm
  | .adc => .adcEvIv e imm
  | .sbb => .sbbEvIv e imm
  | .and => .andEvIv e imm
  | .sub => .subEvIv e imm
  | .xor => .xorEvIv e imm
  | .cmp => .cmpEvIv e imm

/-- 83 /n `op Ev, Ib`. -/
def AluOp.evIb (op : AluOp) (e : Rm16) (imm : Byte) : Instr :=
  match op with
  | .add => .addEvIb e imm
  | .or => .orEvIb e imm
  | .adc => .adcEvIb e imm
  | .sbb => .sbbEvIb e imm
  | .and => .andEvIb e imm
  | .sub => .subEvIb e imm
  | .xor => .xorEvIb e imm
  | .cmp => .cmpEvIb e imm

/-- Every form of one operation completes with its result, its flags and nothing else, from every ready state; memory operands are RAM or ROM. -/
def AluOp.Forms (op : AluOp) : Prop :=
  ∀ s : State, s.Ready →
    (∀ e g, s.plainLoc8 (s.locate e) → ∃ t, exec (op.ebGb e g) s = .next t ∧ Alu8 op s t (s.locate e) (s.valueAt8 (s.locate e)) (s.reg8 g)) ∧
    (∀ e g, s.plainLoc16 (s.locate e) → ∃ t, exec (op.evGv e g) s = .next t ∧ Alu16 op s t (s.locate e) (s.valueAt16 (s.locate e)) (s.reg16 g)) ∧
    (∀ g e, s.plainLoc8 (s.locate e) → ∃ t, exec (op.gbEb g e) s = .next t ∧ Alu8 op s t (.reg g) (s.reg8 g) (s.valueAt8 (s.locate e))) ∧
    (∀ g e, s.plainLoc16 (s.locate e) → ∃ t, exec (op.gvEv g e) s = .next t ∧ Alu16 op s t (.reg g) (s.reg16 g) (s.valueAt16 (s.locate e))) ∧
    (∀ imm, ∃ t, exec (op.alIb imm) s = .next t ∧ Alu8 op s t (.reg .al) (s.reg8 .al) imm) ∧
    (∀ imm, ∃ t, exec (op.axIv imm) s = .next t ∧ Alu16 op s t (.reg .ax) (s.reg16 .ax) imm) ∧
    (∀ v e imm, s.plainLoc8 (s.locate e) → ∃ t, exec (op.ebIb v e imm) s = .next t ∧ Alu8 op s t (s.locate e) (s.valueAt8 (s.locate e)) imm) ∧
    (∀ e imm, s.plainLoc16 (s.locate e) → ∃ t, exec (op.evIv e imm) s = .next t ∧ Alu16 op s t (s.locate e) (s.valueAt16 (s.locate e)) imm) ∧
    (∀ e imm, s.plainLoc16 (s.locate e) →
      ∃ t, exec (op.evIb e imm) s = .next t ∧ Alu16 op s t (s.locate e) (s.valueAt16 (s.locate e)) (imm.signExtend 16))
/-! ## Other shapes of arithmetic and logic -/

/-- The flags INC and DEC write: all status flags but CF (R252). -/
def countFlags : List Flag := [.pf, .af, .zf, .sf, .ovf]

/-- INC of a byte operand (R258, R259). -/
structure Inc8 (s t : State) (l : Loc Reg8) : Prop where
  value : t.valueAt8 l = s.stored8 l (s.valueAt8 l + 1)
  flags : SumAux t (s.valueAt8 l) 1#8 false ∧ ResultFlags t (s.valueAt8 l + 1)
  frame : Frame s t (dest8 l countFlags)

/-- INC of a word operand. -/
structure Inc16 (s t : State) (l : Loc Reg16) : Prop where
  value : t.valueAt16 l = s.stored16 l (s.valueAt16 l + 1)
  flags : SumAux t (s.valueAt16 l) 1#16 false ∧ ResultFlags t (s.valueAt16 l + 1)
  frame : Frame s t (dest16 l countFlags)

/-- DEC of a byte operand (R260, R261). -/
structure Dec8 (s t : State) (l : Loc Reg8) : Prop where
  value : t.valueAt8 l = s.stored8 l (s.valueAt8 l - 1)
  flags : DiffAux t (s.valueAt8 l) 1#8 false ∧ ResultFlags t (s.valueAt8 l - 1)
  frame : Frame s t (dest8 l countFlags)

/-- DEC of a word operand. -/
structure Dec16 (s t : State) (l : Loc Reg16) : Prop where
  value : t.valueAt16 l = s.stored16 l (s.valueAt16 l - 1)
  flags : DiffAux t (s.valueAt16 l) 1#16 false ∧ ResultFlags t (s.valueAt16 l - 1)
  frame : Frame s t (dest16 l countFlags)

/-- NEG of a byte operand (R262). -/
structure Neg8 (s t : State) (l : Loc Reg8) : Prop where
  value : t.valueAt8 l = s.stored8 l (-s.valueAt8 l)
  flags : DiffFlags t 0#8 (s.valueAt8 l) false ∧ ResultFlags t (-s.valueAt8 l)
  inEffect : t.flag .cf = decide (s.valueAt8 l ≠ 0) ∧ t.flag .ovf = decide (s.valueAt8 l = 0x80#8)
  frame : Frame s t (dest8 l statusFlags)

/-- NEG of a word operand (R262). -/
structure Neg16 (s t : State) (l : Loc Reg16) : Prop where
  value : t.valueAt16 l = s.stored16 l (-s.valueAt16 l)
  flags : DiffFlags t 0#16 (s.valueAt16 l) false ∧ ResultFlags t (-s.valueAt16 l)
  inEffect : t.flag .cf = decide (s.valueAt16 l ≠ 0) ∧ t.flag .ovf = decide (s.valueAt16 l = 0x8000#16)
  frame : Frame s t (dest16 l statusFlags)

/-- TEST: the flags of the conjunction and nothing else (R304). -/
structure Tested {w : Nat} (s t : State) (d v : BitVec w) : Prop where
  flags : LogicFlags t (d &&& v)
  frame : Frame s t { flags := statusFlags }

/-- The encoding is a documented one, or undocumented ones have their silicon meaning (R410). -/
def State.admits (s : State) (v : Enc) : Prop := v = .main ∨ s.cfg.undocMode = .silicon

/-! ## Shifts and rotates in closed form (R306-R314) -/

/-- Operand and CF after `n` one-bit steps, `n` at least 1, from operand `v` and CF `c`: a rotate of the operand or, for RCL and RCR, of CF and the operand
together; a logical or arithmetic shift with the last bit shifted out. -/
def ShiftOp.after {w : Nat} (op : ShiftOp) (n : Nat) (v : BitVec w) (c : Bool) : BitVec w × Bool :=
  match op with
  | .rol => (v.rotateLeft n, (v.rotateLeft n).getLsbD 0)
  | .ror => (v.rotateRight n, (v.rotateRight n).msb)
  | .rcl => (((BitVec.cons c v).rotateLeft n).setWidth w, ((BitVec.cons c v).rotateLeft n).msb)
  | .rcr => (((BitVec.cons c v).rotateRight n).setWidth w, ((BitVec.cons c v).rotateRight n).msb)
  | .shl => (v <<< n, decide (n ≤ w) && v.getLsbD (w - n))
  | .shr => (v >>> n, v.getLsbD (n - 1))
  | .sar => (v.sshiftRight n, (v.sshiftRight (n - 1)).getLsbD 0)

/-- OF by the table of R314, from the operand before the last step, the result and the final CF. -/
def ShiftOp.overflow {w : Nat} (op : ShiftOp) (before r : BitVec w) (cf : Bool) : Bool :=
  match op with
  | .rol | .rcl | .shl => r.msb ^^ cf
  | .ror | .rcr => r.msb ^^ r.getLsbD (w - 2)
  | .shr => before.msb
  | .sar => false

/-- The flags an operation of the shift group may change for a count of at least 1. -/
def ShiftOp.changes (op : ShiftOp) : List Flag :=
  match op with
  | .rol | .ror | .rcl | .rcr => [.cf, .ovf]
  | .shl | .shr | .sar => statusFlags

/-- The flags after a shift or rotate by `n`, at least 1, of `v`: CF; OF for a count of 1, and for more where undefined flags have their silicon values; SF,
ZF and PF of a shift. AF is undefined after a shift. -/
structure Shifted {w : Nat} (op : ShiftOp) (s t : State) (n : Nat) (v : BitVec w) : Prop where
  cf : t.flag .cf = (op.after n v (s.flag .cf)).2
  ovf : n = 1 ∨ s.cfg.undefFlags = .silicon →
    t.flag .ovf = op.overflow (op.after (n - 1) v (s.flag .cf)).1 (op.after n v (s.flag .cf)).1 (op.after n v (s.flag .cf)).2
  result : op = .shl ∨ op = .shr ∨ op = .sar → ResultFlags t (op.after n v (s.flag .cf)).1

/-- D0 and D2: the operation on a byte operand. -/
def ShiftOp.eb (op : ShiftOp) (c : Count) (e : Rm8) : Instr :=
  match op with
  | .rol => .rolEb c e
  | .ror => .rorEb c e
  | .rcl => .rclEb c e
  | .rcr => .rcrEb c e
  | .shl => .shlEb c e
  | .shr => .shrEb c e
  | .sar => .sarEb c e

/-- D1 and D3: the operation on a word operand. -/
def ShiftOp.ev (op : ShiftOp) (c : Count) (e : Rm16) : Instr :=
  match op with
  | .rol => .rolEv c e
  | .ror => .rorEv c e
  | .rcl => .rclEv c e
  | .rcr => .rcrEv c e
  | .shl => .shlEv c e
  | .shr => .shrEv c e
  | .sar => .sarEv c e

/-- The count of a shift: 1, or all eight bits of CL (R306). -/
def countOf (s : State) (c : Count) : Nat :=
  match c with
  | .one => 1
  | .cl => (s.reg8 .cl).toNat

/-! ## The stack and interrupt entry -/

/-- Push of a word: SP decreased by 2, the word at SS:SP (R13). -/
structure Pushed (s t : State) (v : Word) : Prop where
  sp : t.reg16 .sp = s.reg16 .sp - 2
  word : t.wordAt (s.seg .ss) (s.reg16 .sp - 2) = s.storedWord (s.seg .ss) (s.reg16 .sp - 2) v
  frame : Frame s t { words := [.sp], mem := wordAddrs (s.seg .ss) (s.reg16 .sp - 2) }

/-- Where the next push goes is RAM or ROM. -/
def State.pushPlain (s : State) : Prop := s.plainWordAt (s.seg .ss) (s.reg16 .sp - 2)

/-- What the next pop reads is RAM or ROM. -/
def State.popPlain (s : State) : Prop := s.plainWordAt (s.seg .ss) (s.reg16 .sp)

/-- The word on top of the stack. -/
def State.top (s : State) : Word := s.wordAt (s.seg .ss) (s.reg16 .sp)

/-- The addresses of the three words an interrupt entry pushes. -/
def State.entryAddrs (s : State) : List Nat :=
  wordAddrs (s.seg .ss) (s.reg16 .sp - 2) ++ wordAddrs (s.seg .ss) (s.reg16 .sp - 4) ++ wordAddrs (s.seg .ss) (s.reg16 .sp - 6)

/-- The three stack words and the vector of an interrupt of type `n` are RAM or ROM. -/
structure State.EntryPlain (s : State) (n : Byte) : Prop where
  first : s.plainWordAt (s.seg .ss) (s.reg16 .sp - 2)
  second : s.plainWordAt (s.seg .ss) (s.reg16 .sp - 4)
  third : s.plainWordAt (s.seg .ss) (s.reg16 .sp - 6)
  offset : s.plainWordAt 0#16 (n.setWidth 16 * 4)
  segment : s.plainWordAt 0#16 (n.setWidth 16 * 4 + 2)

/-- Interrupt entry of type `n` with saved offset `sip` (R450): FLAGS, CS and `sip` on the stack, IF and TF clear, CS:IP the vector as it stands after the
pushes, the queue flushed, a halt ended, and nothing else. -/
structure IntEntry (s t : State) (n : Byte) (sip : Word) : Prop where
  sp : t.reg16 .sp = s.reg16 .sp - 6
  flagsPushed : t.wordAt (s.seg .ss) (s.reg16 .sp - 2) = s.storedWord (s.seg .ss) (s.reg16 .sp - 2) s.flagsWord
  csPushed : t.wordAt (s.seg .ss) (s.reg16 .sp - 4) = s.storedWord (s.seg .ss) (s.reg16 .sp - 4) (s.seg .cs)
  ipPushed : t.wordAt (s.seg .ss) (s.reg16 .sp - 6) = s.storedWord (s.seg .ss) (s.reg16 .sp - 6) sip
  cleared : t.flag .intf = false ∧ t.flag .tf = false
  cs : t.seg .cs = t.wordAt 0#16 (n.setWidth 16 * 4 + 2)
  frame : JumpFrame { s with intr := { s.intr with halted := false } } t
    { words := [.sp], segs := [.cs], flags := [.intf, .tf], mem := s.entryAddrs } (t.wordAt 0#16 (n.setWidth 16 * 4))

/-- An interrupt an instruction enters by itself, with the offset after it saved (R441, R444-R446): the boundary learns of it (R461). -/
def OwnEntry (s t : State) (n : Byte) : Prop := IntEntry { s with entered := .internal } t n s.ip

/-- A divide error (R441): the destinations `ws` take the values of DE_DEST, the status flags are undefined, then type 0 is entered. `u` is the machine
between the two. -/
def DivideError (s t : State) (ws : List Reg16) : Prop :=
  ∃ u, Frame s u { words := ws, flags := statusFlags } ∧
    (∀ a d, s.cfg.deDest = .fixed a d → (.ax ∈ ws → u.reg16 .ax = a) ∧ (.dx ∈ ws → u.reg16 .dx = d)) ∧ OwnEntry u t 0#8

/-! ## Ports -/

/-- An I/O instruction changes at most what `d` names, the record of device accesses and the count of bytes devices have delivered; IP and the rest of the
machine keep their values. -/
structure IoFrame (s t : State) (d : Dests) : Prop where
  regs : RegFrame s t d
  ip : t.ip = s.ip
  others : { t.others with events := [], busDraws := 0 } = { s.others with events := [], busDraws := 0 }

/-- The event of one port access (R84), with its AddressFault (R95). -/
def State.portEvent (s : State) (d : Dir) (p : Word) (v : Byte) : BusEvent := ⟨.io, d, portAddr p, v, s.cfg.addrFault .io (portAddr p)⟩

/-- A port that nothing serves reads as the open-bus constant (R83). -/
def State.openPort (s : State) (p : Word) (v : Byte) : Prop := s.cfg.portKind (portAddr p) = .none → ∀ b, s.cfg.openBus = .const b → v = b

/-! ## Code -/

/-- The bytes at CS:IP are `bs`, in RAM or ROM, and no store or change of CS races with their fetch (R125, R414). -/
structure CodeAt (s : State) (bs : List Byte) : Prop where
  plain : ∀ k < bs.length, s.plainAt (s.seg .cs) (s.ip + BitVec.ofNat 16 k)
  bytes : ∀ k (h : k < bs.length), s.byteAt (s.seg .cs) (s.ip + BitVec.ofNat 16 k) = bs[k]
  fresh : s.stale = []
  race : s.fetchRace = none


end Sys2Proof.Machine
end

