-- ==== Sys2Proof/Certificates/Slice0/Obligations.lean ====
section
/-!
DEFINITION. The statements for the provers. Each formalises the rules of spec/ its docstring names; where a clause rests on the model's own choice the
docstring says so. The terms are those of Safety.lean.
-/

open Sys2Proof
open Sys2Proof.Machine

/-! ## Encoding -/

/-- R140, R144-R155, R161: encoding a well-formed instruction, of any row and with its operands at any values, and decoding the bytes gives it back, whatever
follows it in the stream. -/
def Obligations.DecodeOfEncode : Prop := ∀ i : Instr, i.wf = true → ∀ rest : List Byte, decode (encode i ++ rest) = .ok i rest

/-- R153, R156: what decodes is well-formed, and its bytes are exactly those it encodes to: no two instructions share bytes and decoding drops no bit. -/
def Obligations.EncodeOfDecode : Prop :=
  ∀ (bs : List Byte) (i : Instr) (rest : List Byte), decode bs = .ok i rest → i.wf = true ∧ encode i ++ rest = bs

/-- R153, R156: any six bytes decode, whatever they are, to an instruction of one to six bytes.
That a prefix byte decodes as an instruction of its own, so that six bytes are always enough, is the model's choice (log 1): by R142 and R163 the prefixes of an
instruction, and its length with them, have no bound. -/
def Obligations.DecodeTotal : Prop :=
  ∀ bs : List Byte, 6 ≤ bs.length → ∃ i rest, decode bs = .ok i rest ∧ rest.length + 1 ≤ bs.length ∧ bs.length ≤ rest.length + 6

/-- Words written out from the encodings of R200, R203, R248, R258, R306, R332, R353, R364, R371 and R399 decode to the instructions they stand for. -/
def Obligations.DecodeWords : Prop :=
  decode [0b10001001#8, 0b11_011_000#8] = .ok (.movEvGv (.reg .ax) .bx) [] ∧
  decode [0b10100001#8, 0x00#8, 0x02#8] = .ok (.movAXOv 0x0200#16) [] ∧
  decode [0b00000100#8, 0x0F#8] = .ok (.addALIb 0x0F#8) [] ∧
  decode [0b10000011#8, 0b00_101_111#8, 0x80#8] = .ok (.subEvIb (.mem (.nodisp .bx)) 0x80#8) [] ∧
  decode [0b01000_010#8] = .ok (.incReg .dx) [] ∧
  decode [0b110100_1_1#8, 0b01_100_110#8, 0xFE#8] = .ok (.shlEv .cl (.mem (.disp8 .bp 0xFE#8))) [] ∧
  decode [0b1010010_1#8] = .ok .movsw [] ∧
  decode [0b11101010#8, 0x5B#8, 0xE0#8, 0x00#8, 0xF0#8] = .ok (.jmpAp 0xE05B#16 0xF000#16) [] ∧
  decode [0b0111_0100#8, 0x05#8] = .ok (.jzJb .main 0x05#8) [] ∧
  decode [0b11001100#8] = .ok .int3 [] ∧
  decode [0b11011_010#8, 0b00_011_110#8, 0x34#8, 0x12#8] = .ok (.esc 0b010_011#6 (.mem (.direct 0x1234#16))) []

/-! ## Steps -/

/-- R8, R15, R25, R142, R162: where the bytes at CS:IP are the encoding of an instruction, one step of a core that neither halts nor waits nor has an event to enter
runs exactly that: its meaning, in the state in which its bytes have been taken, then what ends it. Where they are a prefix byte, the same step takes the
prefix and goes on with the byte after it.
That a step takes at most 65536 prefix bytes is the model's choice (log 1). -/
def Obligations.StepRunsDecoded : Prop :=
  (∀ s : State, s.entry = none → s.waiting = false → s.intr.halted = false → step s = s.runStream 0x10000) ∧
  (∀ (s : State) (i : Instr) (bs : List Byte) (n : Nat), decode bs = .ok i [] → CodeAt s bs →
      (isPrefixInstr i = false → s.runStream (n + 1) = mapNext (exec i (s.beginInstr bs.length)) State.finish) ∧
      (isPrefixInstr i = true →
        (∀ t, exec i (s.beginInstr bs.length) = .next t → s.runStream (n + 1) = t.runStream n) ∧
        (∀ r, exec i (s.beginInstr bs.length) = .refused r → s.runStream (n + 1) = .refused r)))

/-- R25, R44, R112, R442, R460, R461, R463, R467, R572: what stands around a meaning in a step. Taking an instruction's bytes moves IP and the fetch pointer past
them; its first byte, which may be a prefix, records `pfx.start` and the trap; nothing else the instruction can see changes. After it: nothing follows a WAIT
that waits; a repeated string instruction that is interrupted ends without being counted; every other instruction is counted and ends with the boundary, at which
the prefix latch is clear.
The model's choices: a prefix byte decodes as an instruction of its own (log 1); the inputs are sampled and DMA is served at the boundary (logs 16, 17); the
interrupted instruction is not counted (log 20); a reset inside an instruction leaves no boundary (log 32); the fetch pointer moves with IP beside an unchanged
queue (log 35). -/
def Obligations.InstrBounds : Prop :=
  (∀ (s : State) (bs : List Byte), CodeAt s bs →
      let t := s.beginInstr bs.length
      t.ip = s.ip + BitVec.ofNat 16 bs.length ∧ t.biu = { s.biu with pfp := s.biu.pfp + BitVec.ofNat 16 bs.length } ∧
      (s.pfx.start = none → t.pfx = { s.pfx with start := some s.ip } ∧ t.intr = { s.intr with trapPending := s.flag .tf } ∧ t.entered = .none) ∧
      (s.pfx.start ≠ none → t.pfx = s.pfx ∧ t.intr = s.intr ∧ t.entered = s.entered) ∧
      t.regs = s.regs ∧ t.segs = s.segs ∧ t.flags = s.flags ∧ t.mem = s.mem ∧ t.events = s.events ∧ t.cfg = s.cfg ∧ t.Direct) ∧
  (∀ s : State,
      (s.waiting = true → s.finish = s) ∧
      (s.waiting = false → s.entry ≠ none → s.finish = { s.endBoundary with pfx := Pfx.clear }) ∧
      (s.waiting = false → s.entry = none → s.entered = .abandoned → s.finish = { s with entered := .none }) ∧
      (s.waiting = false → s.entry = none → s.entered ≠ .abandoned →
        s.finish = { s with driver := { s.driver with instructions := s.driver.instructions + 1 }, pfx := Pfx.clear }.sampleInputs.serveDma.recognise))

/-! ## Reset -/

/-- R50-R53, R55-R58: the values the spec gives for reset. -/
def Obligations.ResetValues : Prop :=
  State.reset.seg .cs = 0xFFFF#16 ∧ State.reset.ip = 0#16 ∧ (phys (State.reset.seg .cs) State.reset.ip) = 0xFFFF0#20 ∧
  State.reset.seg .ds = 0#16 ∧ State.reset.seg .ss = 0#16 ∧ State.reset.seg .es = 0#16 ∧
  (∀ f : Flag, State.reset.flag f = false) ∧ State.reset.flagsWord = 0xF002#16 ∧
  State.reset.biu.queue.len = 0 ∧ State.reset.biu.queue.head = 0 ∧ State.reset.biu.queue.tail = 0 ∧ State.reset.biu.pfp = 0#16 ∧
  State.reset.biu.fetchInflight = false ∧ State.reset.biu.fetchDiscard = false ∧ State.reset.bus = .idle ∧
  State.reset.eng.phase = .fetching ∧ State.reset.eng.stalled = false ∧ State.reset.pfx = ⟨none, none, false, none, none⟩ ∧
  State.reset.intr.nmiLatch = false ∧ State.reset.intr.shadow = false ∧ State.reset.intr.stiDelay = false ∧ State.reset.intr.trapPending = false ∧
  State.reset.intr.halted = false

/-- The invariant holds at reset. -/
def Obligations.ResetInv : Prop := State.reset.Inv

/-- R490, R50-R59, R572: the reset sequence, from any state, whatever was running. Memory, the parameters and the input levels are kept; the counters are 0. The
general registers are free values, of which nothing is said (log 3).
The model's choices: the queue's bytes are 00h (log 35); the recorded device accesses (log 31) and the host's request lines (log 38) are kept; WAIT, an event to
enter, and what the boundary must know are cleared (log 32); the status is Running and the session is kept (log 36). -/
def Obligations.ResetSequence : Prop :=
  ∀ s : State,
    let t := s.applyReset
    t.segs = ⟨0#16, 0xFFFF#16, 0#16, 0#16⟩ ∧ t.ip = 0#16 ∧ t.flags = 0xF002#16 ∧ t.pfx = ⟨none, none, false, none, none⟩ ∧
    t.biu = ⟨⟨List.replicate s.cfg.qCap 0#8, 0, 0, 0⟩, 0#16, false, false, false⟩ ∧ t.bus = .idle ∧
    t.eng.phase = .fetching ∧ t.eng.stalled = false ∧ t.eng.request = none ∧ t.waiting = false ∧ t.entry = none ∧ t.entered = .none ∧
    t.intr = { s.intr with nmiLatch := false, shadow := false, stiDelay := false, trapPending := false, halted := false } ∧
    t.devtm = s.cfg.devReset ∧ t.hostLines = s.hostLines ∧ t.mem = s.mem ∧ t.events = s.events ∧ t.cfg = s.cfg ∧ t.session = s.session ∧
    t.driver.cycles = 0 ∧ t.driver.instructions = 0 ∧ t.driver.status = .running

/-! ## The invariant (R27, R40, R105, R107, R112-R115) -/

/-- Every step of the instruction level, from every state that has the invariant and in which the cycle level is not in the middle of an operation, keeps both.
The canonical form of memory is the model's (log 4), and so is what the cycle level keeps of an operation's start (log 2). -/
def Obligations.StepKeepsInv : Prop := ∀ s t : State, s.Inv → s.eng.start = none → step s = .next t → t.Inv ∧ t.eng.start = none

/-- R107, R113-R116: every tick of the cycle level keeps the invariant, from every state that has it; so no reachable state has a queue overrun, and the next
byte decoded is the one at CS:IP.
The canonical form of memory is the model's (log 4). -/
def Obligations.TickKeepsInv : Prop := ∀ s : State, s.Inv → s.tick.Inv

/-! ## Arithmetic and logic (41_arithmetic.md, 42_logic_shift.md) -/

/-- R253, R254 (with R248, R250, and R28, R30, R33 for what the flags mean): ADD and ADC in all nine forms.
Memory operands are RAM or ROM. -/
def Obligations.AddForms : Prop := AluOp.add.Forms ∧ AluOp.adc.Forms

/-- R255-R257 (with R248, R251, and R28, R30, R33): SUB, SBB and CMP in all nine forms; CMP writes no operand.
Memory operands are RAM or ROM. -/
def Obligations.SubForms : Prop := AluOp.sub.Forms ∧ AluOp.sbb.Forms ∧ AluOp.cmp.Forms

/-- R301-R303 (with R248, R300): AND, OR and XOR in all nine forms. AF is left undefined.
Memory operands are RAM or ROM. An undefined flag is a free value (log 8). -/
def Obligations.LogicForms : Prop := AluOp.and.Forms ∧ AluOp.or.Forms ∧ AluOp.xor.Forms

/-- R304, R419: TEST in all its forms, F6 /1 and F7 /1 under UNDOC_MODE = silicon among them.
Memory operands are RAM or ROM. -/
def Obligations.TestForms : Prop :=
  ∀ s : State, s.Ready →
    (∀ e g, s.plainLoc8 (s.locate e) → ∃ t, exec (.testEbGb e g) s = .next t ∧ Tested s t (s.valueAt8 (s.locate e)) (s.reg8 g)) ∧
    (∀ e g, s.plainLoc16 (s.locate e) → ∃ t, exec (.testEvGv e g) s = .next t ∧ Tested s t (s.valueAt16 (s.locate e)) (s.reg16 g)) ∧
    (∀ imm, ∃ t, exec (.testALIb imm) s = .next t ∧ Tested s t (s.reg8 .al) imm) ∧
    (∀ imm, ∃ t, exec (.testAXIv imm) s = .next t ∧ Tested s t (s.reg16 .ax) imm) ∧
    (∀ v e imm, s.admits v → s.plainLoc8 (s.locate e) → ∃ t, exec (.testEbIb v e imm) s = .next t ∧ Tested s t (s.valueAt8 (s.locate e)) imm) ∧
    (∀ v e imm, s.admits v → s.plainLoc16 (s.locate e) → ∃ t, exec (.testEvIv v e imm) s = .next t ∧ Tested s t (s.valueAt16 (s.locate e)) imm)

/-- R258-R261, R252: INC and DEC in all their forms; CF is unchanged. -/
def Obligations.IncDecForms : Prop :=
  ∀ s : State, s.Ready →
    (∀ r, ∃ t, exec (.incReg r) s = .next t ∧ Inc16 s t (.reg r)) ∧
    (∀ e, s.plainLoc8 (s.locate e) → ∃ t, exec (.incEb e) s = .next t ∧ Inc8 s t (s.locate e)) ∧
    (∀ e, s.plainLoc16 (s.locate e) → ∃ t, exec (.incEv e) s = .next t ∧ Inc16 s t (s.locate e)) ∧
    (∀ r, ∃ t, exec (.decReg r) s = .next t ∧ Dec16 s t (.reg r)) ∧
    (∀ e, s.plainLoc8 (s.locate e) → ∃ t, exec (.decEb e) s = .next t ∧ Dec8 s t (s.locate e)) ∧
    (∀ e, s.plainLoc16 (s.locate e) → ∃ t, exec (.decEv e) s = .next t ∧ Dec16 s t (s.locate e))

/-- R262, R305: NEG, and NOT, which changes no flag. -/
def Obligations.NegNotForms : Prop :=
  ∀ s : State, s.Ready →
    (∀ e, s.plainLoc8 (s.locate e) → ∃ t, exec (.negEb e) s = .next t ∧ Neg8 s t (s.locate e)) ∧
    (∀ e, s.plainLoc16 (s.locate e) → ∃ t, exec (.negEv e) s = .next t ∧ Neg16 s t (s.locate e)) ∧
    (∀ e, s.plainLoc8 (s.locate e) →
      ∃ t, exec (.notEb e) s = .next t ∧ t.valueAt8 (s.locate e) = s.stored8 (s.locate e) (~~~s.valueAt8 (s.locate e)) ∧
        Frame s t (dest8 (s.locate e) [])) ∧
    (∀ e, s.plainLoc16 (s.locate e) →
      ∃ t, exec (.notEv e) s = .next t ∧ t.valueAt16 (s.locate e) = s.stored16 (s.locate e) (~~~s.valueAt16 (s.locate e)) ∧
        Frame s t (dest16 (s.locate e) []))

/-- R306-R314: ROL, ROR, RCL, RCR, SHL, SHR and SAR by 1 and by CL, at both widths, for every count of 1 to 255: the closed form of the repeated one-bit step.
By a count of 0 nothing is written, neither the operand nor any flag.
Undefined flags are free values (log 8). -/
def Obligations.ShiftForms : Prop :=
  (∀ (op : ShiftOp) (s : State) (c : Count), s.Ready → countOf s c ≠ 0 →
      (∀ e, s.plainLoc8 (s.locate e) → ∃ t, exec (op.eb c e) s = .next t ∧
        t.valueAt8 (s.locate e) = s.stored8 (s.locate e) (op.after (countOf s c) (s.valueAt8 (s.locate e)) (s.flag .cf)).1 ∧
        Shifted op s t (countOf s c) (s.valueAt8 (s.locate e)) ∧ Frame s t (dest8 (s.locate e) op.changes)) ∧
      (∀ e, s.plainLoc16 (s.locate e) → ∃ t, exec (op.ev c e) s = .next t ∧
        t.valueAt16 (s.locate e) = s.stored16 (s.locate e) (op.after (countOf s c) (s.valueAt16 (s.locate e)) (s.flag .cf)).1 ∧
        Shifted op s t (countOf s c) (s.valueAt16 (s.locate e)) ∧ Frame s t (dest16 (s.locate e) op.changes))) ∧
  (∀ (op : ShiftOp) (s : State), s.Ready → s.reg8 .cl = 0#8 →
      (∀ e, s.plainLoc8 (s.locate e) → exec (op.eb .cl e) s = .next s) ∧ (∀ e, s.plainLoc16 (s.locate e) → exec (op.ev .cl e) s = .next s))

/-- R263, R264: MUL, and IMUL without a repeat prefix. AX or DX:AX is the unsigned or signed product; CF and OF say that the high half of MUL is not 0, or that
the product of IMUL does not fit in its low half; the other status flags are undefined.
Undefined flags are free values (log 8). -/
def Obligations.MulForms : Prop :=
  (∀ s : State, s.Ready →
      (∀ e, s.plainLoc8 (s.locate e) → ∃ t, exec (.mulEb e) s = .next t ∧
        (t.reg16 .ax).toNat = (s.reg8 .al).toNat * (s.valueAt8 (s.locate e)).toNat ∧
        t.flag .cf = decide (t.reg8 .ah ≠ 0) ∧ t.flag .ovf = decide (t.reg8 .ah ≠ 0) ∧ Frame s t { words := [.ax], flags := statusFlags }) ∧
      (∀ e, s.plainLoc16 (s.locate e) → ∃ t, exec (.mulEv e) s = .next t ∧
        (t.reg16 .dx ++ t.reg16 .ax).toNat = (s.reg16 .ax).toNat * (s.valueAt16 (s.locate e)).toNat ∧
        t.flag .cf = decide (t.reg16 .dx ≠ 0) ∧ t.flag .ovf = decide (t.reg16 .dx ≠ 0) ∧ Frame s t { words := [.ax, .dx], flags := statusFlags })) ∧
  (∀ s : State, s.Ready → s.pfx.rep = none →
      (∀ e, s.plainLoc8 (s.locate e) → ∃ t, exec (.imulEb e) s = .next t ∧
        (t.reg16 .ax).toInt = (s.reg8 .al).toInt * (s.valueAt8 (s.locate e)).toInt ∧
        t.flag .cf = decide ((t.reg16 .ax).toInt ≠ (t.reg8 .al).toInt) ∧ t.flag .ovf = t.flag .cf ∧
        Frame s t { words := [.ax], flags := statusFlags }) ∧
      (∀ e, s.plainLoc16 (s.locate e) → ∃ t, exec (.imulEv e) s = .next t ∧
        (t.reg16 .dx ++ t.reg16 .ax).toInt = (s.reg16 .ax).toInt * (s.valueAt16 (s.locate e)).toInt ∧
        t.flag .cf = decide ((t.reg16 .dx ++ t.reg16 .ax).toInt ≠ (t.reg16 .ax).toInt) ∧ t.flag .ovf = t.flag .cf ∧
        Frame s t { words := [.ax, .dx], flags := statusFlags }))

/-- R265, R266: DIV where the quotient fits, and IDIV without a repeat prefix where the quotient, truncated toward zero, is at least -127 and at most 127, or
-32767 and 32767: AL or AX is the quotient, AH or DX the remainder, with the sign of the dividend; the status flags are undefined.
Undefined flags are free values (log 8). -/
def Obligations.DivForms : Prop :=
  (∀ s : State, s.Ready →
      (∀ e, s.plainLoc8 (s.locate e) → s.valueAt8 (s.locate e) ≠ 0 → (s.reg16 .ax).toNat / (s.valueAt8 (s.locate e)).toNat < 2 ^ 8 →
        ∃ t, exec (.divEb e) s = .next t ∧ (t.reg8 .al).toNat = (s.reg16 .ax).toNat / (s.valueAt8 (s.locate e)).toNat ∧
          (t.reg8 .ah).toNat = (s.reg16 .ax).toNat % (s.valueAt8 (s.locate e)).toNat ∧ Frame s t { words := [.ax], flags := statusFlags }) ∧
      (∀ e, s.plainLoc16 (s.locate e) → s.valueAt16 (s.locate e) ≠ 0 →
        (s.reg16 .dx ++ s.reg16 .ax).toNat / (s.valueAt16 (s.locate e)).toNat < 2 ^ 16 →
        ∃ t, exec (.divEv e) s = .next t ∧ (t.reg16 .ax).toNat = (s.reg16 .dx ++ s.reg16 .ax).toNat / (s.valueAt16 (s.locate e)).toNat ∧
          (t.reg16 .dx).toNat = (s.reg16 .dx ++ s.reg16 .ax).toNat % (s.valueAt16 (s.locate e)).toNat ∧
          Frame s t { words := [.ax, .dx], flags := statusFlags })) ∧
  (∀ s : State, s.Ready → s.pfx.rep = none →
      (∀ e, s.plainLoc8 (s.locate e) → s.valueAt8 (s.locate e) ≠ 0 →
        -127 ≤ (s.reg16 .ax).toInt.tdiv (s.valueAt8 (s.locate e)).toInt → (s.reg16 .ax).toInt.tdiv (s.valueAt8 (s.locate e)).toInt ≤ 127 →
        ∃ t, exec (.idivEb e) s = .next t ∧ (t.reg8 .al).toInt = (s.reg16 .ax).toInt.tdiv (s.valueAt8 (s.locate e)).toInt ∧
          (t.reg8 .ah).toInt = (s.reg16 .ax).toInt.tmod (s.valueAt8 (s.locate e)).toInt ∧ Frame s t { words := [.ax], flags := statusFlags }) ∧
      (∀ e, s.plainLoc16 (s.locate e) → s.valueAt16 (s.locate e) ≠ 0 →
        -32767 ≤ (s.reg16 .dx ++ s.reg16 .ax).toInt.tdiv (s.valueAt16 (s.locate e)).toInt →
        (s.reg16 .dx ++ s.reg16 .ax).toInt.tdiv (s.valueAt16 (s.locate e)).toInt ≤ 32767 →
        ∃ t, exec (.idivEv e) s = .next t ∧ (t.reg16 .ax).toInt = (s.reg16 .dx ++ s.reg16 .ax).toInt.tdiv (s.valueAt16 (s.locate e)).toInt ∧
          (t.reg16 .dx).toInt = (s.reg16 .dx ++ s.reg16 .ax).toInt.tmod (s.valueAt16 (s.locate e)).toInt ∧
          Frame s t { words := [.ax, .dx], flags := statusFlags }))

/-- R441 (with R265, R266, R271, R450): DIV and IDIV by 0 or with a quotient that does not fit, and AAM with base 0, take the divide error.
What the destinations hold is DE_DEST's (log 9). -/
def Obligations.DivideErrors : Prop :=
  ∀ s : State, s.Ready → s.EntryPlain 0#8 →
    (∀ e, s.plainLoc8 (s.locate e) →
      s.valueAt8 (s.locate e) = 0 ∨ 2 ^ 8 ≤ (s.reg16 .ax).toNat / (s.valueAt8 (s.locate e)).toNat →
      ∃ t, exec (.divEb e) s = .next t ∧ DivideError s t [.ax]) ∧
    (∀ e, s.plainLoc16 (s.locate e) →
      s.valueAt16 (s.locate e) = 0 ∨ 2 ^ 16 ≤ (s.reg16 .dx ++ s.reg16 .ax).toNat / (s.valueAt16 (s.locate e)).toNat →
      ∃ t, exec (.divEv e) s = .next t ∧ DivideError s t [.ax, .dx]) ∧
    (∀ e, s.pfx.rep = none → s.plainLoc8 (s.locate e) →
      s.valueAt8 (s.locate e) = 0 ∨ 127 < (s.reg16 .ax).toInt.tdiv (s.valueAt8 (s.locate e)).toInt ∨
        (s.reg16 .ax).toInt.tdiv (s.valueAt8 (s.locate e)).toInt < -127 →
      ∃ t, exec (.idivEb e) s = .next t ∧ DivideError s t [.ax]) ∧
    (∀ e, s.pfx.rep = none → s.plainLoc16 (s.locate e) →
      s.valueAt16 (s.locate e) = 0 ∨ 32767 < (s.reg16 .dx ++ s.reg16 .ax).toInt.tdiv (s.valueAt16 (s.locate e)).toInt ∨
        (s.reg16 .dx ++ s.reg16 .ax).toInt.tdiv (s.valueAt16 (s.locate e)).toInt < -32767 →
      ∃ t, exec (.idivEv e) s = .next t ∧ DivideError s t [.ax, .dx]) ∧
    (∃ t, exec (.aam 0#8) s = .next t ∧ DivideError s t [.ax])

/-- R267-R270: AAA, AAS, DAA and DAS. AAA and AAS keep the low digit of AL, and AF and CF are the test; the second test of DAA and DAS is on the AL of before.
The other status flags are undefined (of DAA and DAS only OF). -/
def Obligations.DecimalAdjust : Prop :=
  (∀ s : State,
      let adj := decide (9 < (s.reg8 .al).toNat % 16) || s.flag .af
      (∃ t, exec .aaa s = .next t ∧ (t.reg8 .al).toNat = ((s.reg8 .al).toNat + if adj then 6 else 0) % 16 ∧
        t.reg8 .ah = s.reg8 .ah + (if adj then 1#8 else 0#8) ∧ t.flag .af = adj ∧ t.flag .cf = adj ∧ Frame s t { words := [.ax], flags := statusFlags }) ∧
      (∃ t, exec .aas s = .next t ∧ (t.reg8 .al).toNat = ((s.reg8 .al).toNat + if adj then 10 else 0) % 16 ∧
        t.reg8 .ah = s.reg8 .ah - (if adj then 1#8 else 0#8) ∧ t.flag .af = adj ∧ t.flag .cf = adj ∧ Frame s t { words := [.ax], flags := statusFlags })) ∧
  (∀ s : State,
      let lo := decide (9 < (s.reg8 .al).toNat % 16) || s.flag .af
      let hi := decide (0x99 < (s.reg8 .al).toNat) || s.flag .cf
      let by_ := (if lo then 6#8 else 0#8) + (if hi then 0x60#8 else 0#8)
      (∃ t, exec .daa s = .next t ∧ t.reg8 .al = s.reg8 .al + by_ ∧ t.flag .af = lo ∧ t.flag .cf = hi ∧ ResultFlags t (t.reg8 .al) ∧
        Frame s t { bytes := [.al], flags := statusFlags }) ∧
      (∃ t, exec .das s = .next t ∧ t.reg8 .al = s.reg8 .al - by_ ∧ t.flag .af = lo ∧
        t.flag .cf = (hi || (lo && decide ((s.reg8 .al).toNat < 6))) ∧ ResultFlags t (t.reg8 .al) ∧ Frame s t { bytes := [.al], flags := statusFlags }))

/-- R271-R274: AAM with a base other than 0, AAD, CBW and CWD. OF, AF and CF are undefined after AAM and AAD; CBW and CWD change no flag. -/
def Obligations.AdjustAndExtend : Prop :=
  ∀ s : State,
    (∀ n : Byte, n ≠ 0 → ∃ t, exec (.aam n) s = .next t ∧ (t.reg8 .ah).toNat = (s.reg8 .al).toNat / n.toNat ∧
      (t.reg8 .al).toNat = (s.reg8 .al).toNat % n.toNat ∧ ResultFlags t (t.reg8 .al) ∧ Frame s t { words := [.ax], flags := statusFlags }) ∧
    (∀ n : Byte, ∃ t, exec (.aad n) s = .next t ∧ (t.reg8 .al).toNat = ((s.reg8 .al).toNat + (s.reg8 .ah).toNat * n.toNat) % 2 ^ 8 ∧
      t.reg8 .ah = 0 ∧ ResultFlags t (t.reg8 .al) ∧ Frame s t { words := [.ax], flags := statusFlags }) ∧
    (∃ t, exec .cbw s = .next t ∧ (t.reg16 .ax).toInt = (s.reg8 .al).toInt ∧ Frame s t { words := [.ax] }) ∧
    (∃ t, exec .cwd s = .next t ∧ (t.reg16 .dx ++ t.reg16 .ax).toInt = (s.reg16 .ax).toInt ∧ Frame s t { words := [.dx] })

/-! ## Data transfer (40_data_transfer.md) -/

/-- R200-R202, R204, R416, R418: MOV between registers and memory by a ModR/M byte, of an immediate, and of a segment register to a register or memory (those of R203
with a direct offset stand in MovOffsetForms). No flag changes; the undocumented encodings of R416 and R418 do the same under UNDOC_MODE = silicon. -/
def Obligations.MovForms : Prop :=
  ∀ s : State, s.Ready →
    (∀ e g, s.plainLoc8 (s.locate e) → ∃ t, exec (.movEbGb e g) s = .next t ∧
      t.valueAt8 (s.locate e) = s.stored8 (s.locate e) (s.reg8 g) ∧ Frame s t (dest8 (s.locate e) [])) ∧
    (∀ e g, s.plainLoc16 (s.locate e) → ∃ t, exec (.movEvGv e g) s = .next t ∧
      t.valueAt16 (s.locate e) = s.stored16 (s.locate e) (s.reg16 g) ∧ Frame s t (dest16 (s.locate e) [])) ∧
    (∀ g e, s.plainLoc8 (s.locate e) → ∃ t, exec (.movGbEb g e) s = .next t ∧ t.reg8 g = s.valueAt8 (s.locate e) ∧ Frame s t { bytes := [g] }) ∧
    (∀ g e, s.plainLoc16 (s.locate e) → ∃ t, exec (.movGvEv g e) s = .next t ∧ t.reg16 g = s.valueAt16 (s.locate e) ∧ Frame s t { words := [g] }) ∧
    (∀ reg e imm, reg = 0#3 ∨ s.cfg.undocMode = .silicon → s.plainLoc8 (s.locate e) → ∃ t, exec (.movEbIb reg e imm) s = .next t ∧
      t.valueAt8 (s.locate e) = s.stored8 (s.locate e) imm ∧ Frame s t (dest8 (s.locate e) [])) ∧
    (∀ reg e imm, reg = 0#3 ∨ s.cfg.undocMode = .silicon → s.plainLoc16 (s.locate e) → ∃ t, exec (.movEvIv reg e imm) s = .next t ∧
      t.valueAt16 (s.locate e) = s.stored16 (s.locate e) imm ∧ Frame s t (dest16 (s.locate e) [])) ∧
    (∀ r imm, ∃ t, exec (.movRegIb r imm) s = .next t ∧ t.reg8 r = imm ∧ Frame s t { bytes := [r] }) ∧
    (∀ r imm, ∃ t, exec (.movRegIv r imm) s = .next t ∧ t.reg16 r = imm ∧ Frame s t { words := [r] }) ∧
    (∀ v sr e, s.admits v → s.plainLoc16 (s.locate e) → ∃ t, exec (.movEwSw v sr e) s = .next t ∧
      t.valueAt16 (s.locate e) = s.stored16 (s.locate e) (s.seg sr) ∧ Frame s t (dest16 (s.locate e) []))

/-- R203: MOV between the accumulator and a direct offset, in DS or the overriding segment; a word at FFFFh takes its high byte at 0000h. -/
def Obligations.MovOffsetForms : Prop :=
  ∀ (s : State) (off : Word), s.Ready →
    let g := s.operandSeg .ds
    (s.plainAt g off → ∃ t, exec (.movALOb off) s = .next t ∧ t.reg8 .al = s.byteAt g off ∧ Frame s t { bytes := [.al] }) ∧
    (s.plainWordAt g off → ∃ t, exec (.movAXOv off) s = .next t ∧ t.reg16 .ax = s.byteAt g (off + 1) ++ s.byteAt g off ∧ Frame s t { words := [.ax] }) ∧
    (s.plainAt g off → ∃ t, exec (.movObAL off) s = .next t ∧ t.byteAt g off = s.storedByte g off (s.reg8 .al) ∧ Frame s t { mem := [addrOf g off] }) ∧
    (s.plainWordAt g off → ∃ t, exec (.movOvAX off) s = .next t ∧ t.byteAt g off = s.storedByte g off (s.reg8 .al) ∧
      t.byteAt g (off + 1) = s.storedByte g (off + 1) (s.reg8 .ah) ∧ Frame s t { mem := wordAddrs g off })

/-- R205, R210, R220, R221, R416, R462: what loads ES, SS or DS. MOV and POP set the interrupt shadow; LDS and LES do not. The word comes through the segments
of before; the reg field 4 to 7 of MOV does the same under UNDOC_MODE = silicon. -/
def Obligations.SegmentLoads : Prop :=
  ∀ s : State, s.Ready →
    (∀ v sr e, sr ≠ .cs → s.admits v → s.plainLoc16 (s.locate e) → ∃ t, exec (.movSwEw v sr e) s = .next t ∧
      t.seg sr = s.valueAt16 (s.locate e) ∧ Frame { s with intr := { s.intr with shadow := true } } t { segs := [sr] }) ∧
    (∀ sr, sr ≠ .cs → s.popPlain → ∃ t, exec (.popSreg sr) s = .next t ∧ t.seg sr = s.top ∧ t.reg16 .sp = s.reg16 .sp + 2 ∧
      Frame { s with intr := { s.intr with shadow := true } } t { words := [.sp], segs := [sr] }) ∧
    (∀ g ea, let sg := s.operandSeg (defaultSeg ea); let o := s.eaOffset ea
      s.plainWordAt sg o → s.plainWordAt sg (o + 2) →
      (∃ t, exec (.ldsGvMp g (.mem ea)) s = .next t ∧ t.reg16 g = s.wordAt sg o ∧ t.seg .ds = s.wordAt sg (o + 2) ∧ Frame s t { words := [g], segs := [.ds] }) ∧
      (∃ t, exec (.lesGvMp g (.mem ea)) s = .next t ∧ t.reg16 g = s.wordAt sg o ∧ t.seg .es = s.wordAt sg (o + 2) ∧ Frame s t { words := [g], segs := [.es] }))

/-- R206-R208, R224, R422 (with R13): PUSH r16, where PUSH SP stores the decremented SP, PUSH sreg, PUSHF, which stores the hardwired bits as R27 says, and
PUSH Ev, also as FF /7 under UNDOC_MODE = silicon. For SP as an Ev operand the word stored is the old or the decremented SP; which is a free choice.
The free choice is log 10. -/
def Obligations.PushForms : Prop :=
  (∀ s : State, s.Ready → s.pushPlain →
      (∀ r, r ≠ .sp → ∃ t, exec (.pushReg r) s = .next t ∧ Pushed s t (s.reg16 r)) ∧
      (∃ t, exec (.pushReg .sp) s = .next t ∧ Pushed s t (s.reg16 .sp - 2)) ∧
      (∀ sr, ∃ t, exec (.pushSreg sr) s = .next t ∧ Pushed s t (s.seg sr)) ∧
      (∃ t, exec .pushf s = .next t ∧ Pushed s t ((s.flags &&& 0x0FD5#16) ||| 0xF002#16))) ∧
  (∀ (s : State) (v : Enc) (e : Rm16), s.Ready → s.pushPlain → s.admits v → s.plainLoc16 (s.locate e) →
      ∃ t, exec (.pushEv v e) s = .next t ∧
        (e ≠ .reg .sp → Pushed s t (s.valueAt16 (s.locate e))) ∧
        (e = .reg .sp → Pushed s t (s.reg16 .sp) ∨ Pushed s t (s.reg16 .sp - 2)))

/-- R209, R211, R225, R417: POP r16, POP Ev, and POPF, which writes the nine live flags and no reserved bit. POP SP leaves the word read in SP. -/
def Obligations.PopForms : Prop :=
  ∀ s : State, s.Ready → s.popPlain →
    (∀ r, ∃ t, exec (.popReg r) s = .next t ∧ t.reg16 r = s.top ∧ (r ≠ .sp → t.reg16 .sp = s.reg16 .sp + 2) ∧ Frame s t { words := [r, .sp] }) ∧
    (∀ reg e, reg = 0#3 ∨ s.cfg.undocMode = .silicon → s.plainLoc16 (s.locate e) → ∃ t, exec (.popEv reg e) s = .next t ∧
      t.valueAt16 (s.locate e) = s.stored16 (s.locate e) s.top ∧ (e ≠ .reg .sp → t.reg16 .sp = s.reg16 .sp + 2) ∧
      Frame s t { dest16 (s.locate e) [] with words := .sp :: (dest16 (s.locate e) []).words }) ∧
    (∃ t, exec .popf s = .next t ∧ t.flags = (s.top &&& 0x0FD5#16) ||| 0xF002#16 ∧ (∀ f, t.flag f = s.top.getLsbD f.bit) ∧
      t.reg16 .sp = s.reg16 .sp + 2 ∧ Frame s t { words := [.sp], flags := [.cf, .pf, .af, .zf, .sf, .tf, .intf, .df, .ovf] })

/-- R212, R213, R402: XCHG in its three forms, and NOP, which changes nothing. -/
def Obligations.Exchanges : Prop :=
  ∀ s : State, s.Ready →
    (∀ e g, s.plainLoc8 (s.locate e) → ∃ t, exec (.xchgEbGb e g) s = .next t ∧ t.reg8 g = s.valueAt8 (s.locate e) ∧
      t.valueAt8 (s.locate e) = s.stored8 (s.locate e) (s.reg8 g) ∧
      Frame s t { dest8 (s.locate e) [] with bytes := g :: (dest8 (s.locate e) []).bytes }) ∧
    (∀ e g, s.plainLoc16 (s.locate e) → ∃ t, exec (.xchgEvGv e g) s = .next t ∧ t.reg16 g = s.valueAt16 (s.locate e) ∧
      t.valueAt16 (s.locate e) = s.stored16 (s.locate e) (s.reg16 g) ∧
      Frame s t { dest16 (s.locate e) [] with words := g :: (dest16 (s.locate e) []).words }) ∧
    (∀ r, ∃ t, exec (.xchgAX r) s = .next t ∧ t.reg16 .ax = s.reg16 r ∧ t.reg16 r = s.reg16 .ax ∧ Frame s t { words := [.ax, r] }) ∧
    exec .nop s = .next s

/-- R214, R219, R222, R223: XLAT, LEA of a memory operand, LAHF and SAHF. -/
def Obligations.LoadsAndFlagBytes : Prop :=
  ∀ s : State, s.Ready →
    (s.plainAt (s.operandSeg .ds) (s.reg16 .bx + (s.reg8 .al).setWidth 16) → ∃ t, exec .xlat s = .next t ∧
      t.reg8 .al = s.byteAt (s.operandSeg .ds) (s.reg16 .bx + (s.reg8 .al).setWidth 16) ∧ Frame s t { bytes := [.al] }) ∧
    (∀ g ea, ∃ t, exec (.leaGvM g (.mem ea)) s = .next t ∧ t.reg16 g = s.eaOffset ea ∧ Frame s t { words := [g] }) ∧
    (∃ t, exec .lahf s = .next t ∧ (∀ f : Flag, f.bit < 8 → (t.reg8 .ah).getLsbD f.bit = s.flag f) ∧ (t.reg8 .ah).getLsbD 1 = true ∧
      (t.reg8 .ah).getLsbD 3 = false ∧ (t.reg8 .ah).getLsbD 5 = false ∧ Frame s t { bytes := [.ah] }) ∧
    (∃ t, exec .sahf s = .next t ∧ (∀ f : Flag, f.bit < 8 → t.flag f = (s.reg8 .ah).getLsbD f.bit) ∧
      Frame s t { flags := [.sf, .zf, .af, .pf, .cf] })

/-- R151, R152, R148, R74: the effective address is the sum, modulo 2^16, of the registers the operand names and its displacement, a byte displacement
sign-extended; its segment is SS where BP is a base, else DS, or the overriding segment. -/
def Obligations.EffectiveAddresses : Prop :=
  ∀ (s : State) (ea : Ea),
    let base : EaBase → Nat := fun b => match b with
      | .bxsi => (s.reg16 .bx).toNat + (s.reg16 .si).toNat
      | .bxdi => (s.reg16 .bx).toNat + (s.reg16 .di).toNat
      | .bpsi => (s.reg16 .bp).toNat + (s.reg16 .si).toNat
      | .bpdi => (s.reg16 .bp).toNat + (s.reg16 .di).toNat
      | .si => (s.reg16 .si).toNat
      | .di => (s.reg16 .di).toNat
      | .bp => (s.reg16 .bp).toNat
      | .bx => (s.reg16 .bx).toNat
    let stack : EaBase → Bool := fun b => b == .bpsi || b == .bpdi || b == .bp
    match ea with
    | .nodisp b => (s.eaOffset ea).toNat = base b % 2 ^ 16 ∧
        s.operandSeg (defaultSeg ea) = s.seg (s.pfx.seg.getD (if stack b then .ss else .ds))
    | .disp8 b d => (s.eaOffset ea).toNat = (base b + (d.signExtend 16).toNat) % 2 ^ 16 ∧
        s.operandSeg (defaultSeg ea) = s.seg (s.pfx.seg.getD (if stack b then .ss else .ds))
    | .disp16 b d => (s.eaOffset ea).toNat = (base b + d.toNat) % 2 ^ 16 ∧
        s.operandSeg (defaultSeg ea) = s.seg (s.pfx.seg.getD (if stack b then .ss else .ds))
    | .direct d => s.eaOffset ea = d ∧ s.operandSeg (defaultSeg ea) = s.seg (s.pfx.seg.getD .ds)

/-- R215-R218, R83, R84: IN and OUT. Each byte is one recorded access, the low byte at the port and the high byte at the next, modulo 2^16. What a device
returns is a free value, which is recorded; a port that nothing serves reads as the open-bus constant. OUT changes nothing else.
That an access with AddressFault is recorded too is the model's choice (log 13). -/
def Obligations.PortForms : Prop :=
  ∀ (s : State), s.Direct →
    (∀ (i : Instr) (p : Word), (∃ b, i = .inALIb b ∧ p = b.setWidth 16) ∨ (i = .inALDX ∧ p = s.reg16 .dx) →
      ∃ t v, exec i s = .next t ∧ t.reg8 .al = v ∧ t.events = s.events ++ [s.portEvent .read p v] ∧ s.openPort p v ∧ IoFrame s t { bytes := [.al] }) ∧
    (∀ (i : Instr) (p : Word), (∃ b, i = .inAXIb b ∧ p = b.setWidth 16) ∨ (i = .inAXDX ∧ p = s.reg16 .dx) →
      ∃ t lo hi, exec i s = .next t ∧ t.reg16 .ax = hi ++ lo ∧
        t.events = s.events ++ [s.portEvent .read p lo, s.portEvent .read (p + 1) hi] ∧ s.openPort p lo ∧ s.openPort (p + 1) hi ∧
        IoFrame s t { words := [.ax] }) ∧
    (∀ (i : Instr) (p : Word), (∃ b, i = .outIbAL b ∧ p = b.setWidth 16) ∨ (i = .outDXAL ∧ p = s.reg16 .dx) →
      ∃ t, exec i s = .next t ∧ t.events = s.events ++ [s.portEvent .write p (s.reg8 .al)] ∧ IoFrame s t {}) ∧
    (∀ (i : Instr) (p : Word), (∃ b, i = .outIbAX b ∧ p = b.setWidth 16) ∨ (i = .outDXAX ∧ p = s.reg16 .dx) →
      ∃ t, exec i s = .next t ∧ t.events = s.events ++ [s.portEvent .write p (s.reg8 .al), s.portEvent .write (p + 1) (s.reg8 .ah)] ∧ IoFrame s t {})

/-- R414, R416, R462: POP CS and MOV CS under UNDOC_MODE = silicon. CS changes, IP and the queue do not, the shadow is set, and at most Q_CAP of the next
bytes still come from the old CS; how many is a free value.
The free count is log 12. -/
def Obligations.CsWrites : Prop :=
  ∀ s : State, s.Ready → s.cfg.undocMode = .silicon →
    (s.popPlain → ∃ t k, exec (.popSreg .cs) s = .next t ∧ t.seg .cs = s.top ∧ t.reg16 .sp = s.reg16 .sp + 2 ∧ k ≤ s.cfg.qCap ∧
      Frame { s with intr := { s.intr with shadow := true }, fetchRace := some ⟨s.seg .cs, k⟩ } t { words := [.sp], segs := [.cs] }) ∧
    (∀ v e, s.plainLoc16 (s.locate e) → ∃ t k, exec (.movSwEw v .cs e) s = .next t ∧ t.seg .cs = s.valueAt16 (s.locate e) ∧ k ≤ s.cfg.qCap ∧
      Frame { s with intr := { s.intr with shadow := true }, fetchRace := some ⟨s.seg .cs, k⟩ } t { segs := [.cs] })

/-! ## Strings (43_string.md) -/

/-- R330, R332-R336: one iteration of each string instruction, which is the whole instruction without a repeat prefix. SI and DI move by the element's size, up
or down as DF says; the source segment may be overridden, the destination is always ES:DI. -/
def Obligations.StringOnce : Prop :=
  ∀ s : State, s.Ready → s.pfx.rep = none →
    let g := s.operandSeg .ds
    let es := s.seg .es
    let si := s.reg16 .si
    let di := s.reg16 .di
    let by_ : Word → Word := fun k => if s.flag .df then -k else k
    (s.plainAt g si → s.plainAt es di → ∃ t, exec .movsb s = .next t ∧ t.byteAt es di = s.storedByte es di (s.byteAt g si) ∧
      t.reg16 .si = si + by_ 1 ∧ t.reg16 .di = di + by_ 1 ∧ Frame s t { words := [.si, .di], mem := [addrOf es di] }) ∧
    (s.plainWordAt g si → s.plainWordAt es di → ∃ t, exec .movsw s = .next t ∧ t.wordAt es di = s.storedWord es di (s.wordAt g si) ∧
      t.reg16 .si = si + by_ 2 ∧ t.reg16 .di = di + by_ 2 ∧ Frame s t { words := [.si, .di], mem := wordAddrs es di }) ∧
    (s.plainAt g si → s.plainAt es di → ∃ t, exec .cmpsb s = .next t ∧ DiffFlags t (s.byteAt g si) (s.byteAt es di) false ∧
      ResultFlags t (s.byteAt g si - s.byteAt es di) ∧ t.reg16 .si = si + by_ 1 ∧ t.reg16 .di = di + by_ 1 ∧
      Frame s t { words := [.si, .di], flags := statusFlags }) ∧
    (s.plainWordAt g si → s.plainWordAt es di → ∃ t, exec .cmpsw s = .next t ∧ DiffFlags t (s.wordAt g si) (s.wordAt es di) false ∧
      ResultFlags t (s.wordAt g si - s.wordAt es di) ∧ t.reg16 .si = si + by_ 2 ∧ t.reg16 .di = di + by_ 2 ∧
      Frame s t { words := [.si, .di], flags := statusFlags }) ∧
    (s.plainAt es di → ∃ t, exec .scasb s = .next t ∧ DiffFlags t (s.reg8 .al) (s.byteAt es di) false ∧
      ResultFlags t (s.reg8 .al - s.byteAt es di) ∧ t.reg16 .di = di + by_ 1 ∧ Frame s t { words := [.di], flags := statusFlags }) ∧
    (s.plainWordAt es di → ∃ t, exec .scasw s = .next t ∧ DiffFlags t (s.reg16 .ax) (s.wordAt es di) false ∧
      ResultFlags t (s.reg16 .ax - s.wordAt es di) ∧ t.reg16 .di = di + by_ 2 ∧ Frame s t { words := [.di], flags := statusFlags }) ∧
    (s.plainAt g si → ∃ t, exec .lodsb s = .next t ∧ t.reg8 .al = s.byteAt g si ∧ t.reg16 .si = si + by_ 1 ∧ Frame s t { words := [.si], bytes := [.al] }) ∧
    (s.plainWordAt g si → ∃ t, exec .lodsw s = .next t ∧ t.reg16 .ax = s.wordAt g si ∧ t.reg16 .si = si + by_ 2 ∧ Frame s t { words := [.si, .ax] }) ∧
    (s.plainAt es di → ∃ t, exec .stosb s = .next t ∧ t.byteAt es di = s.storedByte es di (s.reg8 .al) ∧ t.reg16 .di = di + by_ 1 ∧
      Frame s t { words := [.di], mem := [addrOf es di] }) ∧
    (s.plainWordAt es di → ∃ t, exec .stosw s = .next t ∧ t.wordAt es di = s.storedWord es di (s.reg16 .ax) ∧ t.reg16 .di = di + by_ 2 ∧
      Frame s t { words := [.di], mem := wordAddrs es di })

/-- R331, R463: a repeated string instruction. With CX = 0 nothing happens. Else one iteration is done and CX decreases; then it ends if CX is 0, or, for CMPS
and SCAS, if ZF is 0 under REPE or 1 under REPNE; and if nothing is recognised at the point between iterations, what follows is the instruction again.
That the inputs are sampled and DMA is served at that point is the model's choice (logs 16, 17). -/
def Obligations.RepeatLoop : Prop :=
  ∀ (i : Instr) (s u : State) (r : Rep),
    i ∈ [Instr.movsb, .movsw, .cmpsb, .cmpsw, .stosb, .stosw, .lodsb, .lodsw, .scasb, .scasw] → s.Direct → s.pfx.rep = some r →
    exec i { s with pfx := { s.pfx with rep := none } } = .next u →
    let compares := decide (i ∈ [Instr.cmpsb, .cmpsw, .scasb, .scasw])
    let t := { u with pfx := s.pfx }.setReg16 .cx (s.reg16 .cx - 1)
    let ends := compares && (match r with | .repe => !t.flag .zf | .repne => t.flag .zf)
    let p := t.sampleInputs.serveDma
    (s.reg16 .cx = 0 → exec i s = .next s) ∧
    (s.reg16 .cx ≠ 0 → s.reg16 .cx = 1 ∨ ends = true → exec i s = .next t) ∧
    (s.reg16 .cx ≠ 0 → s.reg16 .cx ≠ 1 → ends = false → p.pollDecision = .go → exec i s = exec i p)

/-- R337, R452, R463: a latched NMI after an iteration that does not end the loop interrupts a repeated string instruction: the registers stand as after that
iteration, and what is entered next is NMI, with the offset of the last prefix byte saved.
The model's choices: what is sampled and served between the iterations (logs 16, 17), that the entry is the next step and no second boundary comes before it
(log 20), and that LOCK has ended by then (log 39). -/
def Obligations.RepeatInterrupted : Prop :=
  ∀ (i : Instr) (s u : State) (r : Rep) (o : Word),
    i ∈ [Instr.movsb, .movsw, .cmpsb, .cmpsw, .stosb, .stosw, .lodsb, .lodsw, .scasb, .scasw] → s.Direct → s.pfx.rep = some r → s.pfx.last = some o →
    exec i { s with pfx := { s.pfx with rep := none } } = .next u → s.reg16 .cx ≠ 0 → s.reg16 .cx ≠ 1 →
    let compares := decide (i ∈ [Instr.cmpsb, .cmpsw, .scasb, .scasw])
    let t := { u with pfx := s.pfx }.setReg16 .cx (s.reg16 .cx - 1)
    let ends := compares && (match r with | .repe => !t.flag .zf | .repne => t.flag .zf)
    let p := t.sampleInputs.serveDma
    ends = false → p.intr.resetLine = false → p.intr.nmiLatch = true →
    let q := { p with intr := { p.intr with nmiLatch := false }, entry := some ⟨.nmi, o⟩ }
    exec i s = .next q ∧
    (q.waiting = false → Memory.wf q.mem = true → q.EntryPlain 2#8 →
      ∃ v, step q.finish = .next v ∧ IntEntry { q.endBoundary with pfx := Pfx.clear, entry := none, port := Port.direct } v 2#8 o)

/-! ## Control transfer (44_control_transfer.md) -/

/-- R351-R355: the five jumps. -/
def Obligations.Jumps : Prop :=
  ∀ s : State, s.Ready →
    (∀ disp, ∃ t, exec (.jmpJb disp) s = .next t ∧ JumpFrame s t {} (s.ip + disp.signExtend 16)) ∧
    (∀ disp, ∃ t, exec (.jmpJv disp) s = .next t ∧ JumpFrame s t {} (s.ip + disp)) ∧
    (∀ off sel, ∃ t, exec (.jmpAp off sel) s = .next t ∧ t.seg .cs = sel ∧ JumpFrame s t { segs := [.cs] } off) ∧
    (∀ e, s.plainLoc16 (s.locate e) → ∃ t, exec (.jmpEv e) s = .next t ∧ JumpFrame s t {} (s.valueAt16 (s.locate e))) ∧
    (∀ ea, let g := s.operandSeg (defaultSeg ea); let o := s.eaOffset ea
      s.plainWordAt g o → s.plainWordAt g (o + 2) →
      ∃ t, exec (.jmpMp (.mem ea)) s = .next t ∧ t.seg .cs = s.wordAt g (o + 2) ∧ JumpFrame s t { segs := [.cs] } (s.wordAt g o))

/-- R356-R359: the four calls push the offset after the instruction, the far ones CS before it; operands are read before the pushes. -/
def Obligations.Calls : Prop :=
  ∀ s : State, s.Ready → s.pushPlain →
    let ss := s.seg .ss
    let sp := s.reg16 .sp
    let near (t : State) (target : Word) : Prop :=
      t.reg16 .sp = sp - 2 ∧ t.wordAt ss (sp - 2) = s.storedWord ss (sp - 2) s.ip ∧ JumpFrame s t { words := [.sp], mem := wordAddrs ss (sp - 2) } target
    let far (t : State) (sel target : Word) : Prop :=
      t.reg16 .sp = sp - 4 ∧ t.wordAt ss (sp - 2) = s.storedWord ss (sp - 2) (s.seg .cs) ∧ t.wordAt ss (sp - 4) = s.storedWord ss (sp - 4) s.ip ∧
        t.seg .cs = sel ∧ JumpFrame s t { words := [.sp], segs := [.cs], mem := wordAddrs ss (sp - 2) ++ wordAddrs ss (sp - 4) } target
    (∀ disp, ∃ t, exec (.callJv disp) s = .next t ∧ near t (s.ip + disp)) ∧
    (∀ e, s.plainLoc16 (s.locate e) → ∃ t, exec (.callEv e) s = .next t ∧ near t (s.valueAt16 (s.locate e))) ∧
    (s.plainWordAt ss (sp - 4) →
      (∀ off sel, ∃ t, exec (.callAp off sel) s = .next t ∧ far t sel off) ∧
      (∀ ea, let g := s.operandSeg (defaultSeg ea); let o := s.eaOffset ea
        s.plainWordAt g o → s.plainWordAt g (o + 2) → ∃ t, exec (.callMp (.mem ea)) s = .next t ∧ far t (s.wordAt g (o + 2)) (s.wordAt g o)))

/-- R360-R363, R412: RET and RETF, with and without release, and their aliases under UNDOC_MODE = silicon. -/
def Obligations.Returns : Prop :=
  ∀ (s : State) (v : Enc), s.Ready → s.popPlain → s.admits v →
    let ss := s.seg .ss
    let sp := s.reg16 .sp
    (∃ t, exec (.ret v) s = .next t ∧ t.reg16 .sp = sp + 2 ∧ JumpFrame s t { words := [.sp] } s.top) ∧
    (∀ n, ∃ t, exec (.retIw v n) s = .next t ∧ t.reg16 .sp = sp + 2 + n ∧ JumpFrame s t { words := [.sp] } s.top) ∧
    (s.plainWordAt ss (sp + 2) →
      (∃ t, exec (.retf v) s = .next t ∧ t.reg16 .sp = sp + 4 ∧ t.seg .cs = s.wordAt ss (sp + 2) ∧
        JumpFrame s t { words := [.sp], segs := [.cs] } s.top) ∧
      (∀ n, ∃ t, exec (.retfIw v n) s = .next t ∧ t.reg16 .sp = sp + 4 + n ∧ t.seg .cs = s.wordAt ss (sp + 2) ∧
        JumpFrame s t { words := [.sp], segs := [.cs] } s.top))

/-- R364, R365, R411, R350: the sixteen conditional jumps, and their aliases under UNDOC_MODE = silicon: taken on the condition of the table, with a flush; else
nothing changes. -/
def Obligations.CondJumps : Prop :=
  ∀ (s : State) (v : Enc) (disp : Byte), s.Direct → s.admits v →
    let jumpsIf (i : Instr) (c : Bool) : Prop :=
      ∃ t, exec i s = .next t ∧ (c = true → JumpFrame s t {} (s.ip + disp.signExtend 16)) ∧ (c = false → t = s)
    jumpsIf (.joJb v disp) (s.flag .ovf) ∧ jumpsIf (.jnoJb v disp) (!s.flag .ovf) ∧
    jumpsIf (.jbJb v disp) (s.flag .cf) ∧ jumpsIf (.jnbJb v disp) (!s.flag .cf) ∧
    jumpsIf (.jzJb v disp) (s.flag .zf) ∧ jumpsIf (.jnzJb v disp) (!s.flag .zf) ∧
    jumpsIf (.jbeJb v disp) (s.flag .cf || s.flag .zf) ∧ jumpsIf (.jnbeJb v disp) (!s.flag .cf && !s.flag .zf) ∧
    jumpsIf (.jsJb v disp) (s.flag .sf) ∧ jumpsIf (.jnsJb v disp) (!s.flag .sf) ∧
    jumpsIf (.jpJb v disp) (s.flag .pf) ∧ jumpsIf (.jnpJb v disp) (!s.flag .pf) ∧
    jumpsIf (.jlJb v disp) (s.flag .sf != s.flag .ovf) ∧ jumpsIf (.jnlJb v disp) (s.flag .sf == s.flag .ovf) ∧
    jumpsIf (.jleJb v disp) (s.flag .zf || s.flag .sf != s.flag .ovf) ∧ jumpsIf (.jnleJb v disp) (!s.flag .zf && s.flag .sf == s.flag .ovf)

/-- R366-R369, R350: LOOP, LOOPE and LOOPNE decrease CX, without touching a flag, and branch on it; JCXZ leaves CX alone. -/
def Obligations.Loops : Prop :=
  ∀ (s : State) (disp : Byte), s.Direct →
    let to_ := s.ip + disp.signExtend 16
    let loops (i : Instr) (c : Bool) : Prop :=
      ∃ t, exec i s = .next t ∧ t.reg16 .cx = s.reg16 .cx - 1 ∧
        (s.reg16 .cx ≠ 1 ∧ c = true → JumpFrame s t { words := [.cx] } to_) ∧ (s.reg16 .cx = 1 ∨ c = false → Frame s t { words := [.cx] })
    loops (.loopJb disp) true ∧ loops (.loopeJb disp) (s.flag .zf) ∧ loops (.loopneJb disp) (!s.flag .zf) ∧
    (s.reg16 .cx = 0 → ∃ t, exec (.jcxzJb disp) s = .next t ∧ JumpFrame s t {} to_) ∧ (s.reg16 .cx ≠ 0 → exec (.jcxzJb disp) s = .next s)

/-- R370-R372, R444-R446, R450: INT n, INT3 and INTO with OF = 1 enter their interrupt with the next offset saved; INTO with OF = 0 does nothing. -/
def Obligations.SoftwareInterrupts : Prop :=
  ∀ s : State, s.Ready →
    (∀ n, s.EntryPlain n → ∃ t, exec (.intIb n) s = .next t ∧ OwnEntry s t n) ∧
    (s.EntryPlain 3#8 → ∃ t, exec .int3 s = .next t ∧ OwnEntry s t 3#8) ∧
    (s.EntryPlain 4#8 → s.flag .ovf = true → ∃ t, exec .into s = .next t ∧ OwnEntry s t 4#8) ∧
    (s.flag .ovf = false → exec .into s = .next s)

/-- R373, R453 (with R27): IRET restores IP, CS and the nine live flags from the stack, in that order, and flushes. -/
def Obligations.InterruptReturn : Prop :=
  ∀ s : State, s.Ready →
    let ss := s.seg .ss
    let sp := s.reg16 .sp
    s.popPlain → s.plainWordAt ss (sp + 2) → s.plainWordAt ss (sp + 4) →
    ∃ t, exec .iret s = .next t ∧ t.seg .cs = s.wordAt ss (sp + 2) ∧ t.flags = (s.wordAt ss (sp + 4) &&& 0x0FD5#16) ||| 0xF002#16 ∧
      (∀ f, t.flag f = (s.wordAt ss (sp + 4)).getLsbD f.bit) ∧ t.reg16 .sp = sp + 6 ∧
      JumpFrame s t { words := [.sp], segs := [.cs], flags := [.cf, .pf, .af, .zf, .sf, .tf, .intf, .df, .ovf] } s.top

/-! ## Processor control and undocumented encodings (45_processor_control.md, 46_undocumented.md) -/

/-- R390-R396, R462: each flag instruction writes its one flag; STI also delays INTR under STI_SHADOW. -/
def Obligations.FlagInstructions : Prop :=
  ∀ s : State,
    let sets (i : Instr) (f : Flag) (b : Bool) : Prop := ∃ t, exec i s = .next t ∧ t.flag f = b ∧ Frame s t { flags := [f] }
    sets .clc .cf false ∧ sets .stc .cf true ∧ sets .cmc .cf (!s.flag .cf) ∧ sets .cld .df false ∧ sets .std .df true ∧ sets .cli .intf false ∧
    (∃ t, exec .sti s = .next t ∧ t.flag .intf = true ∧
      Frame { s with intr := { s.intr with stiDelay := s.cfg.stiShadow || s.intr.stiDelay } } t { flags := [.intf] })

/-- R141, R142, R44, R400, R401, R403, R415: a prefix byte sets its part of the prefix latch, the last of a kind winning, and `pfx.last` to its own offset, and
changes nothing else; F1 does as LOCK under UNDOC_MODE = silicon.
A prefix byte as an instruction of the decoder is the model's choice (log 1). -/
def Obligations.Prefixes : Prop :=
  ∀ s : State,
    let sets (i : Instr) (p : Pfx) : Prop := exec i s = .next { s with pfx := { p with last := some (s.ip - 1) } }
    sets .segES { s.pfx with seg := some .es } ∧ sets .segCS { s.pfx with seg := some .cs } ∧
    sets .segSS { s.pfx with seg := some .ss } ∧ sets .segDS { s.pfx with seg := some .ds } ∧
    sets .repne { s.pfx with rep := some .repne } ∧ sets .rep { s.pfx with rep := some .repe } ∧
    (∀ v, s.admits v → sets (.lock v) { s.pfx with lock := true })

/-- R397-R399: HLT halts, WAIT waits unless TEST is asserted, and ESC changes no register, flag or byte of memory (its reads of RAM and ROM have no effect).
ESC_READS as a table is the model's choice (log 21). -/
def Obligations.HaltWaitEscape : Prop :=
  ∀ s : State, s.Ready →
    exec .hlt s = .next { s with intr := { s.intr with halted := true } } ∧
    (s.intr.testPin = true → exec .wait s = .next s) ∧ (s.intr.testPin = false → exec .wait s = .next { s with waiting := true }) ∧
    (∀ n r, exec (.esc n (.reg r)) s = .next s) ∧
    (∀ n ea, (∀ d ∈ escOffsets s.cfg n, s.plainAt (s.operandSeg (defaultSeg ea)) (s.eaOffset ea + d)) → exec (.esc n (.mem ea)) s = .next s)

/-- R410-R420, R422: under UNDOC_MODE = refuse every undocumented encoding is refused, before any effect.
State.reset has UNDOC_MODE = refuse, the spec's default (log 6). -/
def Obligations.UndocumentedRefused : Prop :=
  ∀ s : State, s.cfg.undocMode = .refuse →
    let refused (i : Instr) : Prop := exec i s = .refused .undocumentedEncoding
    (∀ d, refused (.joJb .second d) ∧ refused (.jnoJb .second d) ∧ refused (.jbJb .second d) ∧ refused (.jnbJb .second d) ∧
      refused (.jzJb .second d) ∧ refused (.jnzJb .second d) ∧ refused (.jbeJb .second d) ∧ refused (.jnbeJb .second d) ∧
      refused (.jsJb .second d) ∧ refused (.jnsJb .second d) ∧ refused (.jpJb .second d) ∧ refused (.jnpJb .second d) ∧
      refused (.jlJb .second d) ∧ refused (.jnlJb .second d) ∧ refused (.jleJb .second d) ∧ refused (.jnleJb .second d)) ∧
    (∀ n, refused (.retIw .second n) ∧ refused (.ret .second) ∧ refused (.retfIw .second n) ∧ refused (.retf .second)) ∧
    refused .salc ∧ refused (.popSreg .cs) ∧ refused (.lock .second) ∧
    (∀ v sr e, refused (.movEwSw .second sr e) ∧ refused (.movSwEw .second sr e) ∧ refused (.movSwEw v .cs e)) ∧
    (∀ reg e8 e16 imm8 imm16, reg ≠ 0#3 → refused (.popEv reg e16) ∧ refused (.movEbIb reg e8 imm8) ∧ refused (.movEvIv reg e16 imm16)) ∧
    (∀ e8 e16 imm8 imm16, refused (.testEbIb .second e8 imm8) ∧ refused (.testEvIv .second e16 imm16) ∧ refused (.pushEv .second e16)) ∧
    (∀ e8 e16, refused (.setmoEb e8) ∧ refused (.setmoEv e16) ∧ refused (.setmocEb e8) ∧ refused (.setmocEv e16))

/-- R413, R420: SALC, SETMO and SETMOC under UNDOC_MODE = silicon; SETMOC with CL = 0 changes nothing. -/
def Obligations.UndocumentedSilicon : Prop :=
  ∀ s : State, s.Ready → s.cfg.undocMode = .silicon →
    let ones (t : State) : Prop := t.flag .cf = false ∧ t.flag .ovf = false ∧ t.flag .af = false ∧ t.flag .sf = true ∧ t.flag .zf = false ∧ t.flag .pf = true
    (∃ t, exec .salc s = .next t ∧ t.reg8 .al = (if s.flag .cf then 0xFF#8 else 0#8) ∧ Frame s t { bytes := [.al] }) ∧
    (∀ e, s.plainLoc8 (s.locate e) →
      (∃ t, exec (.setmoEb e) s = .next t ∧ t.valueAt8 (s.locate e) = s.stored8 (s.locate e) 0xFF#8 ∧ ones t ∧ Frame s t (dest8 (s.locate e) statusFlags)) ∧
      (s.reg8 .cl ≠ 0#8 → ∃ t, exec (.setmocEb e) s = .next t ∧ t.valueAt8 (s.locate e) = s.stored8 (s.locate e) 0xFF#8 ∧ ones t ∧
        Frame s t (dest8 (s.locate e) statusFlags)) ∧
      (s.reg8 .cl = 0#8 → exec (.setmocEb e) s = .next s)) ∧
    (∀ e, s.plainLoc16 (s.locate e) →
      (∃ t, exec (.setmoEv e) s = .next t ∧ t.valueAt16 (s.locate e) = s.stored16 (s.locate e) 0xFFFF#16 ∧ ones t ∧
        Frame s t (dest16 (s.locate e) statusFlags)) ∧
      (s.reg8 .cl ≠ 0#8 → ∃ t, exec (.setmocEv e) s = .next t ∧ t.valueAt16 (s.locate e) = s.stored16 (s.locate e) 0xFFFF#16 ∧ ones t ∧
        Frame s t (dest16 (s.locate e) statusFlags)) ∧
      (s.reg8 .cl = 0#8 → exec (.setmocEv e) s = .next s))

/-- R410, R421, R423, R424: what is refused in both modes: FE /2 to /7; a register operand of LEA, LDS, LES, CALL Mp and JMP Mp; IMUL and IDIV under a repeat
prefix. Under UNDOC_MODE = refuse the refusal is that of every undocumented encoding.
The names of the refusals under UNDOC_MODE = silicon are the model's choice (log 34). -/
def Obligations.RefusedInBothModes : Prop :=
  ∀ s : State,
    let refusedAs (i : Instr) (r : Refusal) : Prop :=
      (s.cfg.undocMode = .refuse → exec i s = .refused .undocumentedEncoding) ∧ (s.cfg.undocMode = .silicon → exec i s = .refused r)
    (∀ e, refusedAs (.fe2 e) .feGroup ∧ refusedAs (.fe3 e) .feGroup ∧ refusedAs (.fe4 e) .feGroup ∧
      refusedAs (.fe5 e) .feGroup ∧ refusedAs (.fe6 e) .feGroup ∧ refusedAs (.fe7 e) .feGroup) ∧
    (∀ g r, refusedAs (.leaGvM g (.reg r)) .registerOperand ∧ refusedAs (.ldsGvMp g (.reg r)) .registerOperand ∧
      refusedAs (.lesGvMp g (.reg r)) .registerOperand ∧ refusedAs (.callMp (.reg r)) .registerOperand ∧
      refusedAs (.jmpMp (.reg r)) .registerOperand) ∧
    (∀ e8 e16, s.pfx.rep ≠ none → refusedAs (.imulEb e8) .repBeforeImulIdiv ∧ refusedAs (.imulEv e16) .repBeforeImulIdiv ∧
      refusedAs (.idivEb e8) .repBeforeImulIdiv ∧ refusedAs (.idivEv e16) .repBeforeImulIdiv)

/-! ## Interrupts (60_exceptions.md) -/

/-- R461, R462, R442, R443, R447, R473 (with R450): the boundary algorithm, and the entry of the event it takes. In the shadow nothing is recognised and a latched
NMI stays; else NMI, INTR and the single-step trap in this order, at most one, with the boundary's IP to save; a trap not taken is dropped. INTR is the
host's line or the stubs'. The next step is the entry, of type 2, 1, or, for INTR, the byte of the second INTA cycle: the host's, or else the stubs', or
else a free value.
The model's choices: the bytes as inputs (log 15), the entry as a step of its own (log 20), the host's lines beside the stubs' (log 38). -/
def Obligations.BoundaryEvents : Prop :=
  (∀ s : State, s.intr.resetLine = false →
      let intr := { s.intr with shadow := false, stiDelay := false, trapPending := false }
      let s0 := { s with intr := intr, entered := .none }
      let wantsIntr := (s.intr.intrLine || s.devtm.intr) && s.flag .intf && !s.intr.stiDelay
      let wantsTrap := s.intr.trapPending && (s.entered != .internal || s.cfg.stepAfterInt)
      (s.intr.shadow = true → s.recognise = s0) ∧
      (s.intr.shadow = false → s.intr.nmiLatch = true →
        s.recognise = { s0 with intr := { intr with nmiLatch := false }, entry := some ⟨.nmi, s.ip⟩ }) ∧
      (s.intr.shadow = false → s.intr.nmiLatch = false → wantsIntr = true → s.recognise = { s0 with entry := some ⟨.intr, s.ip⟩ }) ∧
      (s.intr.shadow = false → s.intr.nmiLatch = false → wantsIntr = false → wantsTrap = true →
        s.recognise = { s0 with entry := some ⟨.trap, s.ip⟩ }) ∧
      (s.intr.shadow = false → s.intr.nmiLatch = false → wantsIntr = false → wantsTrap = false → s.recognise = s0)) ∧
  (∀ (s : State) (sip : Word), Memory.wf s.mem = true →
      let s0 := { s with entry := none, port := Port.direct }
      (s.entry = some ⟨.nmi, sip⟩ → s.EntryPlain 2#8 → ∃ t, step s = .next t ∧ IntEntry s0 t 2#8 sip) ∧
      (s.entry = some ⟨.trap, sip⟩ → s.EntryPlain 1#8 → ∃ t, step s = .next t ∧ IntEntry s0 t 1#8 sip) ∧
      (s.entry = some ⟨.intr, sip⟩ → (∀ v, s.EntryPlain v) → ∃ t v n, step s = .next t ∧
        (∀ b, s.intr.intaVector.or s.devtm.vector = some b → v = b ∧ n = s.busDraws) ∧ IntEntry { s0 with busDraws := n } t v sip))

/-- R465, R466, R571, R45: sampling the host's inputs. A rise of the NMI level sets the latch, which then stays; the other inputs are levels. The stubs' own
lines stay as they are.
The model's choices: the inputs as a script (log 16), the host's request lines beside the stubs' (log 38). -/
def Obligations.InputSampling : Prop :=
  ∀ (s : State) (h : HostInput) (rest : List HostInput), s.inputs = h :: rest →
    let t := s.sampleInputs
    t.inputs = rest ∧ t.intr.nmiLevel = h.nmi ∧ t.intr.intrLine = h.intr ∧ t.intr.testPin = h.test ∧ t.intr.resetLine = h.reset ∧
    t.intr.intaVector = h.inta ∧ t.hostLines = ⟨h.dma, h.refresh⟩ ∧ t.devtm = s.devtm ∧
    t.intr.nmiLatch = (s.intr.nmiLatch || (h.nmi && !s.intr.nmiLevel)) ∧
    t.regs = s.regs ∧ t.segs = s.segs ∧ t.ip = s.ip ∧ t.flags = s.flags ∧ t.mem = s.mem

/-- R464, R467, R452, R397, R398, R490: one step of a halted core and of a waiting core. A reset resets; WAIT ends if TEST is asserted, and is then counted and
followed by its boundary; a latched NMI is entered, or else an INTR with IF = 1 and no STI delay, with the offset after HLT saved, or that of the WAIT
instruction; with neither NMI nor an enabled INTR nothing but the inputs and other bus masters has acted.
The model's choices: the order of TEST and an interrupt (log 18), a shadow or STI delay under a halt (log 19), INTR and its type from the host or the stubs
(logs 15, 38), the sampling (log 16) and the DMA (log 17). -/
def Obligations.HaltAndWait : Prop :=
  ∀ s : State, s.entry = none →
    let p := { s with port := Port.direct }.sampleInputs.serveDma
    let intr := { p.intr with shadow := false, stiDelay := false, trapPending := false }
    let wantsIntr := (p.intr.intrLine || p.devtm.intr) && p.flag .intf && !p.intr.stiDelay
    let quiet := !p.intr.nmiLatch && !wantsIntr
    let typeIs (v : Byte) (n : Nat) : Prop := ∀ b, p.intr.intaVector.or p.devtm.vector = some b → v = b ∧ n = p.busDraws
    (s.waiting = true ∨ s.intr.halted = true → p.intr.resetLine = true → step s = .next p.applyReset) ∧
    (s.waiting = false → s.intr.halted = true → p.intr.resetLine = false →
      (quiet = true → step s = .next p) ∧
      (p.intr.shadow = false → p.intr.nmiLatch = true → Memory.wf p.mem = true → p.EntryPlain 2#8 → ∃ t, step s = .next t ∧
        IntEntry { p with intr := { intr with nmiLatch := false }, entered := .none } t 2#8 p.ip) ∧
      (p.intr.shadow = false → p.intr.nmiLatch = false → wantsIntr = true → Memory.wf p.mem = true → (∀ v, p.EntryPlain v) →
        ∃ t v n, step s = .next t ∧ typeIs v n ∧ IntEntry { p with intr := intr, entered := .none, busDraws := n } t v p.ip)) ∧
    (s.waiting = true → p.intr.resetLine = false →
      (p.intr.testPin = true → step s =
        .next { p with waiting := false, pfx := Pfx.clear, driver := { p.driver with instructions := p.driver.instructions + 1 } }.recognise) ∧
      (p.intr.testPin = false → quiet = true → step s = .next p) ∧
      (p.intr.testPin = false → p.intr.shadow = false → p.intr.nmiLatch = true → Memory.wf p.mem = true → p.EntryPlain 2#8 → ∃ t, step s = .next t ∧
        IntEntry { p with intr := { intr with nmiLatch := false }, entered := .none, waiting := false, pfx := Pfx.clear } t 2#8
          (p.pfx.start.getD p.ip)) ∧
      (p.intr.testPin = false → p.intr.shadow = false → p.intr.nmiLatch = false → wantsIntr = true → Memory.wf p.mem = true → (∀ v, p.EntryPlain v) →
        ∃ t v n, step s = .next t ∧ typeIs v n ∧
          IntEntry { p with intr := intr, entered := .none, waiting := false, pfx := Pfx.clear, busDraws := n } t v (p.pfx.start.getD p.ip)))

/-! ## Memory (20_memory.md) -/

/-- R82, R83, R84, R72, R75: one byte of memory at the instruction level, by the kind of its region. RAM reads its last written value and a write changes that
byte and no other; ROM reads its contents and ignores a write; a device access is recorded and changes no memory; an unmapped read gives the open-bus
constant, and the access is recorded with its AddressFault.
That an access with AddressFault is recorded too is the model's choice (log 13). -/
def Obligations.MemoryAccess : Prop :=
  ∀ (s : State) (g o : Word) (v : Byte), s.Ready →
    let a := phys g o
    let r := s.rdB g o
    let t := s.wrB g o v
    a.toNat = (g.toNat * 16 + o.toNat) % 2 ^ 20 ∧
    (s.cfg.memKind a = .ram → r = (Memory.read s.mem a.toNat, s) ∧ Memory.read t.mem a.toNat = v ∧
      (∀ b, b ≠ a.toNat → Memory.read t.mem b = Memory.read s.mem b) ∧ Memory.wf t.mem = true ∧ t.events = s.events) ∧
    (s.cfg.memKind a = .rom → r = (Memory.read s.mem a.toNat, s) ∧ t.mem = s.mem ∧ t.events = s.events) ∧
    (∀ d, s.cfg.memKind a = .mmio d → r.2.events = s.events ++ [⟨.memory, .read, a, r.1, false⟩] ∧ r.2.mem = s.mem ∧
      t.events = s.events ++ [⟨.memory, .write, a, v, false⟩] ∧ t.mem = s.mem) ∧
    (s.cfg.memKind a = .none → (∀ b, s.cfg.openBus = .const b → r.1 = b) ∧ r.2.events = s.events ++ [⟨.memory, .read, a, r.1, true⟩] ∧ r.2.mem = s.mem ∧
      t.events = s.events ++ [⟨.memory, .write, a, v, true⟩] ∧ t.mem = s.mem)

/-! ## The bus and the prefetch queue (20_memory.md) -/

/-- R85, R87, R88, R41: one tick moves the phase of the running bus cycle one step: T1, T2, T3, a Tw for each wait state left, T4, and then the next grant. The
data of a read is there from T3 on; a write changes memory on entering T4.
That a read has its data from T3 is the model's choice (log 24). -/
def Obligations.BusPhases : Prop :=
  ∀ (s : State) (c : Cycle),
    let t := s.advanceCycle
    (s.bus = .t1 c → t.bus = .t2 c ∧ t.mem = s.mem) ∧
    (s.bus = .t2 c → ∃ d, t.bus = .t3 { c with data := d } ∧ t.mem = s.mem ∧ (c.dir = .write → d = c.data) ∧
      (c.dir = .read → c.space = .memory → plainKind (s.cfg.memKind c.addr) = true → d = Memory.read s.mem c.addr.toNat)) ∧
    (s.bus = .t3 c ∨ s.bus = .tw c → 0 < c.waitsLeft → t.bus = .tw { c with waitsLeft := c.waitsLeft - 1 } ∧ t.mem = s.mem) ∧
    (s.bus = .t3 c ∨ s.bus = .tw c → c.waitsLeft = 0 → t.bus = .t4 c ∧
      (c.dir = .write → c.space = .memory → s.cfg.memKind c.addr = .ram → t.mem = Memory.write s.mem c.addr.toNat c.data) ∧
      (c.dir = .read ∨ c.space ≠ .memory ∨ s.cfg.memKind c.addr ≠ .ram → t.mem = s.mem)) ∧
    (s.bus = .idle ∨ s.bus = .t4 c → t.bus = .idle ∨ ∃ n, t.bus = .t1 n)

/-- R89, R90, R96, R98, R100, R113, R451: at a grant point the winner is the eligible requester that ranks highest in the default ARB_ORDER: refresh and DMA, the
lowest channel first, unless LOCK holds them off; a code fetch while there is room for its byte, no flush takes effect on this tick and the core is not
halted; the operand request.
The model's choices: the extent of LOCK (log 26), a request line as the host's or the stubs' (log 38). -/
def Obligations.Arbitration : Prop :=
  ∀ s : State, s.cfg.arbOrder = [.refresh, .dma, .fetch, .operand] →
    let held := s.lockOut && s.cfg.lockBlocksDma
    let refresh := (s.hostLines.refresh.isSome || s.devtm.rfq.isSome) && !held
    let wants (ch : Nat) : Bool := (s.hostLines.dma.getD ch none).isSome || (s.devtm.dreq.getD ch none).isSome
    let dma (ch : Nat) : Prop := held = false ∧ wants ch = true ∧ ∀ j < ch, wants j = false
    let noDma : Prop := held = true ∨ ∀ j, wants j = false
    let fetch : Prop := s.biu.queue.len + (if s.biu.fetchInflight then 1 else 0) + s.cfg.fetchFree ≤ s.cfg.qCap ∧ s.intr.halted = false ∧
      s.flushDue = false ∧ s.eng.inta ≠ 1
    let operand : Prop := s.eng.request.isSome = true ∧ s.eng.granted = false
    (refresh = true → s.arbitrate = some .refresh) ∧
    (refresh = false → ∀ ch, dma ch → s.arbitrate = some (.dma ch)) ∧
    (refresh = false → noDma → fetch → s.arbitrate = some .fetch) ∧
    (refresh = false → noDma → ¬fetch → operand → s.arbitrate = some .operand) ∧
    (refresh = false → noDma → ¬fetch → ¬operand → s.arbitrate = none)

/-- R40, R105, R106, R108, R116: the queue is a FIFO of at most its capacity. A push adds a byte at the end, and fails when full, changing nothing; a pop takes the
oldest byte, and stalls when empty; both keep the circular buffer in shape. -/
def Obligations.QueueFifo : Prop :=
  ∀ q : Queue,
    let shape (p : Queue) : Prop := p.buf.length = q.buf.length ∧ p.head < p.buf.length ∧ p.len ≤ p.buf.length ∧ p.tail = (p.head + p.len) % p.buf.length
    shape q →
    (∀ b, q.len < q.buf.length → ∃ p, queuePush q b = some p ∧ queueBytes p = queueBytes q ++ [b] ∧ shape p) ∧
    (∀ b, q.len = q.buf.length → queuePush q b = none) ∧
    (0 < q.len → ∃ b p, queuePop q = some (b, p) ∧ queueBytes q = b :: queueBytes p ∧ shape p) ∧
    (q.len = 0 → queuePop q = none ∧ queueBytes q = [])

/-- R93, R95, R112-R115: the completion of a code fetch. Its byte joins the end of the queue and the fetch pointer moves by one, or, after a flush, the byte is
dropped; either way no fetch is in flight, nothing overruns, and the AddressFault bit is delivered. -/
def Obligations.FetchCompletion : Prop :=
  ∀ (s : State) (c : Cycle), s.Inv → c.req = .fetch → s.bus = .t4 c →
    let t := s.completeCycle c
    t.biu.fetchInflight = false ∧ t.biu.fetchDiscard = false ∧ t.biu.fetchFault = c.addrFault ∧ t.driver = s.driver ∧
    (s.biu.fetchDiscard = true → t.biu.queue = s.biu.queue ∧ t.biu.pfp = s.biu.pfp) ∧
    (s.biu.fetchDiscard = false → queueBytes t.biu.queue = queueBytes s.biu.queue ++ [c.data] ∧ t.biu.pfp = s.biu.pfp + 1)

/-! ## The driver and the validator (80_validator.md) -/

/-- R570-R573: a tick counts one cycle since the last reset; a refused or faulted core changes no state.
That the tick of a reset is counted, so that it ends with the count 1, is the model's reading of R571 and R572; that a tick of a stopped core counts nothing,
makes no validation and sets its result to off is the model's reading of R573 beside R571 and R574 (log 33). -/
def Obligations.TickCounts : Prop :=
  ∀ s : State,
    (s.driver.status.stopped = true → s.tick = { s with driver := { s.driver with validation := .off } }) ∧
    (s.driver.status.stopped = false → s.sampleInputs.intr.resetLine = true → s.tick.driver.cycles = 1) ∧
    (s.driver.status.stopped = false → s.sampleInputs.intr.resetLine = false → s.tick.driver.cycles = s.driver.cycles + 1)

/-- R540, R547-R553, R556, R571, R576: a tick's comparison changes nothing but the session and its result. Without a session, or without validator mode, it is
off. With the null transport it matches. On a serial link a good step exchange and a good read-bus-state exchange end in the comparison with the
snapshot that came back; an exchange that fails ends the session, and an abort aborts it. A comparison matches exactly if the two snapshots are equal in
address, data and every control signal; else the tick's index, both snapshots and the differing categories go to the log and the session is degraded. After a
fatal error the session is gone and its log with the caller.
The link as a script of what will happen on it, and the values of further control signals, are log 27; validator mode as a parameter is log 41. -/
def Obligations.Comparison : Prop :=
  ∀ s : State,
    let p := s.cfg.validator
    { s.validate with session := s.session, driver := { s.validate.driver with validation := s.driver.validation, handedLog := s.driver.handedLog } } = s ∧
    (s.session = none ∨ s.cfg.validatorMode ≠ .enabled → s.validate = { s with driver := { s.driver with validation := .off } }) ∧
    (∀ n, s.cfg.validatorMode = .enabled → s.session = some n → (n.status = .opened ∨ n.status = .degraded) →
      (n.conn = .null → s.validate.driver.validation = .matched ∧ s.validate.session = some { n with seq := n.seq + 1 }) ∧
      (∀ l, n.conn = .serial l →
        (∀ t1, exchangeRetry p .step p.maxAttempts n.conn = (.failed, t1) → s.validate = s.fatalSession n) ∧
        (∀ t1, exchangeRetry p .step p.maxAttempts n.conn = (.aborted, t1) → s.validate = s.abortedSession n t1) ∧
        (∀ a t1, exchangeRetry p .step p.maxAttempts n.conn = (.good a, t1) →
          (∀ t2, exchangeRetry p .readBusState p.maxAttempts t1 = (.failed, t2) → s.validate = s.fatalSession n) ∧
          (∀ t2, exchangeRetry p .readBusState p.maxAttempts t1 = (.aborted, t2) → s.validate = s.abortedSession n t2) ∧
          (∀ hw t2, exchangeRetry p .readBusState p.maxAttempts t1 = (.good (some hw), t2) →
            s.validate = s.recordComparison { n with conn := t2 } hw)))) ∧
    (∀ n hw, let d := compareSnapshots p.ctrlSignals s.snapshot hw
      let t := s.recordComparison n hw
      (d = [] → t.driver.validation = .matched ∧ t.session = some { n with lastHw := some hw, seq := n.seq + 1 }) ∧
      (d ≠ [] → t.driver.validation = .diverged ⟨n.seq, s.snapshot, hw, d⟩ ∧
        t.session = some { n with lastHw := some hw, seq := n.seq + 1, log := n.log ++ [⟨n.seq, s.snapshot, hw, d⟩], status := .degraded })) ∧
    (∀ (names : List String) (sw hw : Snapshot), compareSnapshots names sw hw = [] ↔
      sw.addr = hw.addr ∧ sw.data = hw.data ∧ sw.ctrl.phase = hw.ctrl.phase ∧ sw.ctrl.dir = hw.ctrl.dir ∧ sw.ctrl.space = hw.ctrl.space ∧
        sw.ctrl.lock = hw.ctrl.lock ∧ ∀ x ∈ names, sw.ctrl.value x = hw.ctrl.value x) ∧
    (∀ n, (s.fatalSession n).session = none ∧ (s.fatalSession n).driver.validation = .fatal ∧ (s.fatalSession n).driver.handedLog = n.log) ∧
    (∀ n t, (s.abortedSession n t).session = some { n with conn := t, status := .aborted } ∧ (s.abortedSession n t).driver.validation = .aborted)

/-- R551: an exchange is retried, with a resynchronisation between, until the first good response, `n` attempts at most; a link that fails every one of them is
the one fatal error, after exactly `n` frames.
The link as a script of what will happen on it is log 27. -/
def Obligations.RetryBound : Prop :=
  ∀ (p : ValidatorParams) (cmd : Cmd) (n : Nat) (bad : List Reply) (good : Reply) (snap : Option Snapshot) (rest : List Reply) (sent : List (List Byte)),
    (∀ r ∈ bad, judgeReply p cmd r = .failed) → judgeReply p cmd good = .good snap →
    let frame := requestFrame p cmd (cmdPayload cmd)
    (bad.length < n → exchangeRetry p cmd n (.serial ⟨[], bad ++ good :: rest, [], List.replicate bad.length true, sent⟩) =
      (.good snap, .serial ⟨[], rest, [], [], sent ++ List.replicate (bad.length + 1) frame⟩)) ∧
    (bad.length = n → 0 < n → exchangeRetry p cmd n (.serial ⟨[], bad ++ good :: rest, [], List.replicate (n - 1) true, sent⟩) =
      (.failed, .serial ⟨[], good :: rest, [], [], sent ++ List.replicate n frame⟩))
end

