-- ==== Sys2Proof/Laws/Memory.lean ====
section
/-!
SUPPORT. Memory as a list in canonical form: every write keeps the form, a read after a write gives the byte written, and every other byte is left alone
(R71; log 4).
-/

namespace Sys2Proof.Machine

theorem Memory.wfFrom_mono {lo lo' : Nat} (h : lo' ≤ lo) {m : List Host.Cell} (w : Memory.wfFrom lo m = true) : Memory.wfFrom lo' m = true := by
  cases m with
  | nil => rfl
  | cons c rest =>
    simp only [Memory.wfFrom, Bool.and_eq_true, decide_eq_true_eq] at w ⊢
    exact ⟨⟨⟨by omega, w.1.1.2⟩, w.1.2⟩, w.2⟩

theorem Memory.read_below {lo a : Nat} {m : List Host.Cell} (w : Memory.wfFrom lo m = true) (h : a < lo) : Memory.read m a = Memory.unlisted := by
  induction m generalizing lo with
  | nil => rfl
  | cons c rest ih =>
    simp only [Memory.wfFrom, Bool.and_eq_true, decide_eq_true_eq] at w
    rw [Memory.read, if_neg (by omega)]
    exact ih w.2 (by omega)

theorem Memory.write_keeps_wfFrom {lo a : Nat} (v : Byte) {m : List Host.Cell} (w : Memory.wfFrom lo m = true) (hlo : lo ≤ a) (ha : a < 0x100000) :
    Memory.wfFrom lo (Memory.write m a v) = true := by
  induction m generalizing lo with
  | nil => by_cases hv : v = Memory.unlisted <;> simp_all [Memory.write, Memory.wfFrom]
  | cons c rest ih =>
    obtain ⟨k, u⟩ := c
    have w0 := w
    simp only [Memory.wfFrom, Bool.and_eq_true, decide_eq_true_eq, bne_iff_ne] at w
    obtain ⟨⟨⟨h1, h2⟩, h3⟩, h4⟩ := w
    have above : Memory.wfFrom (a + 1) ((k, u) :: rest) = true ∨ ¬a < k := by
      by_cases h : a < k
      · left; simp [Memory.wfFrom, h4, h2, h3]; omega
      · right; exact h
    rw [Memory.write]
    split_ifs with c1 c2 c3 c4
    · exact w0
    · simp only [Memory.wfFrom, Bool.and_eq_true, decide_eq_true_eq, bne_iff_ne]
      exact ⟨⟨⟨hlo, ha⟩, c2⟩, ⟨⟨⟨by omega, h2⟩, h3⟩, h4⟩⟩
    · exact Memory.wfFrom_mono (by omega) h4
    · simp only [Memory.wfFrom, Bool.and_eq_true, decide_eq_true_eq, bne_iff_ne]
      exact ⟨⟨⟨hlo, ha⟩, c4⟩, by rw [c3]; exact h4⟩
    · simp only [Memory.wfFrom, Bool.and_eq_true, decide_eq_true_eq, bne_iff_ne]
      exact ⟨⟨⟨h1, h2⟩, h3⟩, ih h4 (by omega)⟩

/-- A write keeps the canonical form. -/
theorem Memory.write_keeps_wf {m : List Host.Cell} (w : Memory.wf m = true) (a : PAddr) (v : Byte) : Memory.wf (Memory.write m a.toNat v) = true :=
  Memory.write_keeps_wfFrom v w (Nat.zero_le _) a.isLt

theorem Memory.read_write_same_from {lo a : Nat} (v : Byte) {m : List Host.Cell} (w : Memory.wfFrom lo m = true) (hlo : lo ≤ a) :
    Memory.read (Memory.write m a v) a = v := by
  induction m generalizing lo with
  | nil => by_cases hv : v = Memory.unlisted <;> simp [Memory.write, Memory.read, hv]
  | cons c rest ih =>
    obtain ⟨k, u⟩ := c
    simp only [Memory.wfFrom, Bool.and_eq_true, decide_eq_true_eq] at w
    rw [Memory.write]
    split_ifs with c1 c2 c3 c4
    · rw [c2, Memory.read, if_neg (by omega)]
      exact Memory.read_below w.2 (by omega)
    · simp [Memory.read]
    · rw [c4]
      exact Memory.read_below w.2 (by omega)
    · simp [Memory.read]
    · rw [Memory.read, if_neg (by omega)]
      exact ih w.2 (by omega)

/-- A read after a write to the same place gives the byte written. -/
theorem Memory.read_write_same {m : List Host.Cell} (w : Memory.wf m = true) (a : Nat) (v : Byte) : Memory.read (Memory.write m a v) a = v :=
  Memory.read_write_same_from v w (Nat.zero_le _)

/-- A write leaves every other place alone. -/
theorem Memory.read_write_other {a b : Nat} (h : a ≠ b) (m : List Host.Cell) (v : Byte) :
    Memory.read (Memory.write m a v) b = Memory.read m b := by
  induction m with
  | nil =>
    by_cases hv : v = Memory.unlisted
    · simp [Memory.write, hv]
    · simp [Memory.write, Memory.read, hv]; omega
  | cons c rest ih =>
    obtain ⟨k, u⟩ := c
    rw [Memory.write]
    split_ifs with c1 c2 c3 c4
    · rfl
    · rw [Memory.read, if_neg (by omega)]
    · subst c3; rw [Memory.read, if_neg (by omega)]
    · subst c3; rw [Memory.read, Memory.read, if_neg (by omega), if_neg (by omega)]
    · simp only [Memory.read, ih]

/-- A byte that is written twice keeps the second value. -/
theorem Memory.read_write {m : List Host.Cell} (w : Memory.wf m = true) (a b : Nat) (v : Byte) :
    Memory.read (Memory.write m a v) b = if b = a then v else Memory.read m b := by
  split_ifs with h
  · subst h; exact Memory.read_write_same w _ v
  · exact Memory.read_write_other (fun e => h e.symm) m v

end Sys2Proof.Machine
end

