-- ==== Sys2Proof/Laws/State.lean ====
section
/-!
SUPPORT. One lemma for each field of State, and for each accessor, under each update of it that changes other fields: what the update leaves alone. What
an update does to its own field is in Laws/Ops.lean.
-/

namespace Sys2Proof.Machine

/-! ## A write to a word register -/

@[simp] theorem State.setReg16_segs (s : State) (r : Reg16) (v : Word) : (s.setReg16 r v).segs = s.segs := rfl
@[simp] theorem State.setReg16_ip (s : State) (r : Reg16) (v : Word) : (s.setReg16 r v).ip = s.ip := rfl
@[simp] theorem State.setReg16_flags (s : State) (r : Reg16) (v : Word) : (s.setReg16 r v).flags = s.flags := rfl
@[simp] theorem State.setReg16_pfx (s : State) (r : Reg16) (v : Word) : (s.setReg16 r v).pfx = s.pfx := rfl
@[simp] theorem State.setReg16_intr (s : State) (r : Reg16) (v : Word) : (s.setReg16 r v).intr = s.intr := rfl
@[simp] theorem State.setReg16_waiting (s : State) (r : Reg16) (v : Word) : (s.setReg16 r v).waiting = s.waiting := rfl
@[simp] theorem State.setReg16_entered (s : State) (r : Reg16) (v : Word) : (s.setReg16 r v).entered = s.entered := rfl
@[simp] theorem State.setReg16_entry (s : State) (r : Reg16) (v : Word) : (s.setReg16 r v).entry = s.entry := rfl
@[simp] theorem State.setReg16_mem (s : State) (r : Reg16) (v : Word) : (s.setReg16 r v).mem = s.mem := rfl
@[simp] theorem State.setReg16_events (s : State) (r : Reg16) (v : Word) : (s.setReg16 r v).events = s.events := rfl
@[simp] theorem State.setReg16_stale (s : State) (r : Reg16) (v : Word) : (s.setReg16 r v).stale = s.stale := rfl
@[simp] theorem State.setReg16_fetchRace (s : State) (r : Reg16) (v : Word) : (s.setReg16 r v).fetchRace = s.fetchRace := rfl
@[simp] theorem State.setReg16_biu (s : State) (r : Reg16) (v : Word) : (s.setReg16 r v).biu = s.biu := rfl
@[simp] theorem State.setReg16_bus (s : State) (r : Reg16) (v : Word) : (s.setReg16 r v).bus = s.bus := rfl
@[simp] theorem State.setReg16_lastBus (s : State) (r : Reg16) (v : Word) : (s.setReg16 r v).lastBus = s.lastBus := rfl
@[simp] theorem State.setReg16_devtm (s : State) (r : Reg16) (v : Word) : (s.setReg16 r v).devtm = s.devtm := rfl
@[simp] theorem State.setReg16_hostLines (s : State) (r : Reg16) (v : Word) : (s.setReg16 r v).hostLines = s.hostLines := rfl
@[simp] theorem State.setReg16_eng (s : State) (r : Reg16) (v : Word) : (s.setReg16 r v).eng = s.eng := rfl
@[simp] theorem State.setReg16_port (s : State) (r : Reg16) (v : Word) : (s.setReg16 r v).port = s.port := rfl
@[simp] theorem State.setReg16_draws (s : State) (r : Reg16) (v : Word) : (s.setReg16 r v).draws = s.draws := rfl
@[simp] theorem State.setReg16_busDraws (s : State) (r : Reg16) (v : Word) : (s.setReg16 r v).busDraws = s.busDraws := rfl
@[simp] theorem State.setReg16_inputs (s : State) (r : Reg16) (v : Word) : (s.setReg16 r v).inputs = s.inputs := rfl
@[simp] theorem State.setReg16_driver (s : State) (r : Reg16) (v : Word) : (s.setReg16 r v).driver = s.driver := rfl
@[simp] theorem State.setReg16_session (s : State) (r : Reg16) (v : Word) : (s.setReg16 r v).session = s.session := rfl
@[simp] theorem State.setReg16_cfg (s : State) (r : Reg16) (v : Word) : (s.setReg16 r v).cfg = s.cfg := rfl
@[simp] theorem State.setReg16_seg (s : State) (r : Reg16) (v : Word) (q : SReg) : (s.setReg16 r v).seg q = s.seg q := rfl
@[simp] theorem State.setReg16_flag (s : State) (r : Reg16) (v : Word) (g : Flag) : (s.setReg16 r v).flag g = s.flag g := rfl
@[simp] theorem State.setReg16_flagsWord (s : State) (r : Reg16) (v : Word) : (s.setReg16 r v).flagsWord = s.flagsWord := rfl
@[simp] theorem State.setReg16_operandSeg (s : State) (r : Reg16) (v : Word) (d : SReg) : (s.setReg16 r v).operandSeg d = s.operandSeg d := rfl
@[simp] theorem State.setReg16_byteAt (s : State) (r : Reg16) (v : Word) (g o : Word) : (s.setReg16 r v).byteAt g o = s.byteAt g o := rfl
@[simp] theorem State.setReg16_wordAt (s : State) (r : Reg16) (v : Word) (g o : Word) : (s.setReg16 r v).wordAt g o = s.wordAt g o := rfl
@[simp] theorem State.setReg16_plainAt (s : State) (r : Reg16) (v : Word) (g o : Word) : (s.setReg16 r v).plainAt g o = s.plainAt g o := rfl
@[simp] theorem State.setReg16_plainWordAt (s : State) (r : Reg16) (v : Word) (g o : Word) : (s.setReg16 r v).plainWordAt g o = s.plainWordAt g o := rfl

/-! ## A write to a byte register -/

@[simp] theorem State.setReg8_segs (s : State) (r : Reg8) (v : Byte) : (s.setReg8 r v).segs = s.segs := rfl
@[simp] theorem State.setReg8_ip (s : State) (r : Reg8) (v : Byte) : (s.setReg8 r v).ip = s.ip := rfl
@[simp] theorem State.setReg8_flags (s : State) (r : Reg8) (v : Byte) : (s.setReg8 r v).flags = s.flags := rfl
@[simp] theorem State.setReg8_pfx (s : State) (r : Reg8) (v : Byte) : (s.setReg8 r v).pfx = s.pfx := rfl
@[simp] theorem State.setReg8_intr (s : State) (r : Reg8) (v : Byte) : (s.setReg8 r v).intr = s.intr := rfl
@[simp] theorem State.setReg8_waiting (s : State) (r : Reg8) (v : Byte) : (s.setReg8 r v).waiting = s.waiting := rfl
@[simp] theorem State.setReg8_entered (s : State) (r : Reg8) (v : Byte) : (s.setReg8 r v).entered = s.entered := rfl
@[simp] theorem State.setReg8_entry (s : State) (r : Reg8) (v : Byte) : (s.setReg8 r v).entry = s.entry := rfl
@[simp] theorem State.setReg8_mem (s : State) (r : Reg8) (v : Byte) : (s.setReg8 r v).mem = s.mem := rfl
@[simp] theorem State.setReg8_events (s : State) (r : Reg8) (v : Byte) : (s.setReg8 r v).events = s.events := rfl
@[simp] theorem State.setReg8_stale (s : State) (r : Reg8) (v : Byte) : (s.setReg8 r v).stale = s.stale := rfl
@[simp] theorem State.setReg8_fetchRace (s : State) (r : Reg8) (v : Byte) : (s.setReg8 r v).fetchRace = s.fetchRace := rfl
@[simp] theorem State.setReg8_biu (s : State) (r : Reg8) (v : Byte) : (s.setReg8 r v).biu = s.biu := rfl
@[simp] theorem State.setReg8_bus (s : State) (r : Reg8) (v : Byte) : (s.setReg8 r v).bus = s.bus := rfl
@[simp] theorem State.setReg8_lastBus (s : State) (r : Reg8) (v : Byte) : (s.setReg8 r v).lastBus = s.lastBus := rfl
@[simp] theorem State.setReg8_devtm (s : State) (r : Reg8) (v : Byte) : (s.setReg8 r v).devtm = s.devtm := rfl
@[simp] theorem State.setReg8_hostLines (s : State) (r : Reg8) (v : Byte) : (s.setReg8 r v).hostLines = s.hostLines := rfl
@[simp] theorem State.setReg8_eng (s : State) (r : Reg8) (v : Byte) : (s.setReg8 r v).eng = s.eng := rfl
@[simp] theorem State.setReg8_port (s : State) (r : Reg8) (v : Byte) : (s.setReg8 r v).port = s.port := rfl
@[simp] theorem State.setReg8_draws (s : State) (r : Reg8) (v : Byte) : (s.setReg8 r v).draws = s.draws := rfl
@[simp] theorem State.setReg8_busDraws (s : State) (r : Reg8) (v : Byte) : (s.setReg8 r v).busDraws = s.busDraws := rfl
@[simp] theorem State.setReg8_inputs (s : State) (r : Reg8) (v : Byte) : (s.setReg8 r v).inputs = s.inputs := rfl
@[simp] theorem State.setReg8_driver (s : State) (r : Reg8) (v : Byte) : (s.setReg8 r v).driver = s.driver := rfl
@[simp] theorem State.setReg8_session (s : State) (r : Reg8) (v : Byte) : (s.setReg8 r v).session = s.session := rfl
@[simp] theorem State.setReg8_cfg (s : State) (r : Reg8) (v : Byte) : (s.setReg8 r v).cfg = s.cfg := rfl
@[simp] theorem State.setReg8_seg (s : State) (r : Reg8) (v : Byte) (q : SReg) : (s.setReg8 r v).seg q = s.seg q := rfl
@[simp] theorem State.setReg8_flag (s : State) (r : Reg8) (v : Byte) (g : Flag) : (s.setReg8 r v).flag g = s.flag g := rfl
@[simp] theorem State.setReg8_flagsWord (s : State) (r : Reg8) (v : Byte) : (s.setReg8 r v).flagsWord = s.flagsWord := rfl
@[simp] theorem State.setReg8_operandSeg (s : State) (r : Reg8) (v : Byte) (d : SReg) : (s.setReg8 r v).operandSeg d = s.operandSeg d := rfl
@[simp] theorem State.setReg8_byteAt (s : State) (r : Reg8) (v : Byte) (g o : Word) : (s.setReg8 r v).byteAt g o = s.byteAt g o := rfl
@[simp] theorem State.setReg8_wordAt (s : State) (r : Reg8) (v : Byte) (g o : Word) : (s.setReg8 r v).wordAt g o = s.wordAt g o := rfl
@[simp] theorem State.setReg8_plainAt (s : State) (r : Reg8) (v : Byte) (g o : Word) : (s.setReg8 r v).plainAt g o = s.plainAt g o := rfl
@[simp] theorem State.setReg8_plainWordAt (s : State) (r : Reg8) (v : Byte) (g o : Word) : (s.setReg8 r v).plainWordAt g o = s.plainWordAt g o := rfl

/-! ## A write to a segment register -/

@[simp] theorem State.setSeg_regs (s : State) (r : SReg) (v : Word) : (s.setSeg r v).regs = s.regs := rfl
@[simp] theorem State.setSeg_ip (s : State) (r : SReg) (v : Word) : (s.setSeg r v).ip = s.ip := rfl
@[simp] theorem State.setSeg_flags (s : State) (r : SReg) (v : Word) : (s.setSeg r v).flags = s.flags := rfl
@[simp] theorem State.setSeg_pfx (s : State) (r : SReg) (v : Word) : (s.setSeg r v).pfx = s.pfx := rfl
@[simp] theorem State.setSeg_intr (s : State) (r : SReg) (v : Word) : (s.setSeg r v).intr = s.intr := rfl
@[simp] theorem State.setSeg_waiting (s : State) (r : SReg) (v : Word) : (s.setSeg r v).waiting = s.waiting := rfl
@[simp] theorem State.setSeg_entered (s : State) (r : SReg) (v : Word) : (s.setSeg r v).entered = s.entered := rfl
@[simp] theorem State.setSeg_entry (s : State) (r : SReg) (v : Word) : (s.setSeg r v).entry = s.entry := rfl
@[simp] theorem State.setSeg_mem (s : State) (r : SReg) (v : Word) : (s.setSeg r v).mem = s.mem := rfl
@[simp] theorem State.setSeg_events (s : State) (r : SReg) (v : Word) : (s.setSeg r v).events = s.events := rfl
@[simp] theorem State.setSeg_stale (s : State) (r : SReg) (v : Word) : (s.setSeg r v).stale = s.stale := rfl
@[simp] theorem State.setSeg_fetchRace (s : State) (r : SReg) (v : Word) : (s.setSeg r v).fetchRace = s.fetchRace := rfl
@[simp] theorem State.setSeg_biu (s : State) (r : SReg) (v : Word) : (s.setSeg r v).biu = s.biu := rfl
@[simp] theorem State.setSeg_bus (s : State) (r : SReg) (v : Word) : (s.setSeg r v).bus = s.bus := rfl
@[simp] theorem State.setSeg_lastBus (s : State) (r : SReg) (v : Word) : (s.setSeg r v).lastBus = s.lastBus := rfl
@[simp] theorem State.setSeg_devtm (s : State) (r : SReg) (v : Word) : (s.setSeg r v).devtm = s.devtm := rfl
@[simp] theorem State.setSeg_hostLines (s : State) (r : SReg) (v : Word) : (s.setSeg r v).hostLines = s.hostLines := rfl
@[simp] theorem State.setSeg_eng (s : State) (r : SReg) (v : Word) : (s.setSeg r v).eng = s.eng := rfl
@[simp] theorem State.setSeg_port (s : State) (r : SReg) (v : Word) : (s.setSeg r v).port = s.port := rfl
@[simp] theorem State.setSeg_draws (s : State) (r : SReg) (v : Word) : (s.setSeg r v).draws = s.draws := rfl
@[simp] theorem State.setSeg_busDraws (s : State) (r : SReg) (v : Word) : (s.setSeg r v).busDraws = s.busDraws := rfl
@[simp] theorem State.setSeg_inputs (s : State) (r : SReg) (v : Word) : (s.setSeg r v).inputs = s.inputs := rfl
@[simp] theorem State.setSeg_driver (s : State) (r : SReg) (v : Word) : (s.setSeg r v).driver = s.driver := rfl
@[simp] theorem State.setSeg_session (s : State) (r : SReg) (v : Word) : (s.setSeg r v).session = s.session := rfl
@[simp] theorem State.setSeg_cfg (s : State) (r : SReg) (v : Word) : (s.setSeg r v).cfg = s.cfg := rfl
@[simp] theorem State.setSeg_reg16 (s : State) (r : SReg) (v : Word) (q : Reg16) : (s.setSeg r v).reg16 q = s.reg16 q := rfl
@[simp] theorem State.setSeg_reg8 (s : State) (r : SReg) (v : Word) (q : Reg8) : (s.setSeg r v).reg8 q = s.reg8 q := rfl
@[simp] theorem State.setSeg_flag (s : State) (r : SReg) (v : Word) (g : Flag) : (s.setSeg r v).flag g = s.flag g := rfl
@[simp] theorem State.setSeg_flagsWord (s : State) (r : SReg) (v : Word) : (s.setSeg r v).flagsWord = s.flagsWord := rfl
@[simp] theorem State.setSeg_eaOffset (s : State) (r : SReg) (v : Word) (ea : Ea) : (s.setSeg r v).eaOffset ea = s.eaOffset ea := rfl
@[simp] theorem State.setSeg_byteAt (s : State) (r : SReg) (v : Word) (g o : Word) : (s.setSeg r v).byteAt g o = s.byteAt g o := rfl
@[simp] theorem State.setSeg_wordAt (s : State) (r : SReg) (v : Word) (g o : Word) : (s.setSeg r v).wordAt g o = s.wordAt g o := rfl
@[simp] theorem State.setSeg_plainAt (s : State) (r : SReg) (v : Word) (g o : Word) : (s.setSeg r v).plainAt g o = s.plainAt g o := rfl
@[simp] theorem State.setSeg_plainWordAt (s : State) (r : SReg) (v : Word) (g o : Word) : (s.setSeg r v).plainWordAt g o = s.plainWordAt g o := rfl

/-! ## A write to one flag -/

@[simp] theorem State.setFlag_regs (s : State) (f : Flag) (b : Bool) : (s.setFlag f b).regs = s.regs := rfl
@[simp] theorem State.setFlag_segs (s : State) (f : Flag) (b : Bool) : (s.setFlag f b).segs = s.segs := rfl
@[simp] theorem State.setFlag_ip (s : State) (f : Flag) (b : Bool) : (s.setFlag f b).ip = s.ip := rfl
@[simp] theorem State.setFlag_pfx (s : State) (f : Flag) (b : Bool) : (s.setFlag f b).pfx = s.pfx := rfl
@[simp] theorem State.setFlag_intr (s : State) (f : Flag) (b : Bool) : (s.setFlag f b).intr = s.intr := rfl
@[simp] theorem State.setFlag_waiting (s : State) (f : Flag) (b : Bool) : (s.setFlag f b).waiting = s.waiting := rfl
@[simp] theorem State.setFlag_entered (s : State) (f : Flag) (b : Bool) : (s.setFlag f b).entered = s.entered := rfl
@[simp] theorem State.setFlag_entry (s : State) (f : Flag) (b : Bool) : (s.setFlag f b).entry = s.entry := rfl
@[simp] theorem State.setFlag_mem (s : State) (f : Flag) (b : Bool) : (s.setFlag f b).mem = s.mem := rfl
@[simp] theorem State.setFlag_events (s : State) (f : Flag) (b : Bool) : (s.setFlag f b).events = s.events := rfl
@[simp] theorem State.setFlag_stale (s : State) (f : Flag) (b : Bool) : (s.setFlag f b).stale = s.stale := rfl
@[simp] theorem State.setFlag_fetchRace (s : State) (f : Flag) (b : Bool) : (s.setFlag f b).fetchRace = s.fetchRace := rfl
@[simp] theorem State.setFlag_biu (s : State) (f : Flag) (b : Bool) : (s.setFlag f b).biu = s.biu := rfl
@[simp] theorem State.setFlag_bus (s : State) (f : Flag) (b : Bool) : (s.setFlag f b).bus = s.bus := rfl
@[simp] theorem State.setFlag_lastBus (s : State) (f : Flag) (b : Bool) : (s.setFlag f b).lastBus = s.lastBus := rfl
@[simp] theorem State.setFlag_devtm (s : State) (f : Flag) (b : Bool) : (s.setFlag f b).devtm = s.devtm := rfl
@[simp] theorem State.setFlag_hostLines (s : State) (f : Flag) (b : Bool) : (s.setFlag f b).hostLines = s.hostLines := rfl
@[simp] theorem State.setFlag_eng (s : State) (f : Flag) (b : Bool) : (s.setFlag f b).eng = s.eng := rfl
@[simp] theorem State.setFlag_port (s : State) (f : Flag) (b : Bool) : (s.setFlag f b).port = s.port := rfl
@[simp] theorem State.setFlag_draws (s : State) (f : Flag) (b : Bool) : (s.setFlag f b).draws = s.draws := rfl
@[simp] theorem State.setFlag_busDraws (s : State) (f : Flag) (b : Bool) : (s.setFlag f b).busDraws = s.busDraws := rfl
@[simp] theorem State.setFlag_inputs (s : State) (f : Flag) (b : Bool) : (s.setFlag f b).inputs = s.inputs := rfl
@[simp] theorem State.setFlag_driver (s : State) (f : Flag) (b : Bool) : (s.setFlag f b).driver = s.driver := rfl
@[simp] theorem State.setFlag_session (s : State) (f : Flag) (b : Bool) : (s.setFlag f b).session = s.session := rfl
@[simp] theorem State.setFlag_cfg (s : State) (f : Flag) (b : Bool) : (s.setFlag f b).cfg = s.cfg := rfl
@[simp] theorem State.setFlag_reg16 (s : State) (f : Flag) (b : Bool) (q : Reg16) : (s.setFlag f b).reg16 q = s.reg16 q := rfl
@[simp] theorem State.setFlag_reg8 (s : State) (f : Flag) (b : Bool) (q : Reg8) : (s.setFlag f b).reg8 q = s.reg8 q := rfl
@[simp] theorem State.setFlag_seg (s : State) (f : Flag) (b : Bool) (q : SReg) : (s.setFlag f b).seg q = s.seg q := rfl
@[simp] theorem State.setFlag_operandSeg (s : State) (f : Flag) (b : Bool) (d : SReg) : (s.setFlag f b).operandSeg d = s.operandSeg d := rfl
@[simp] theorem State.setFlag_eaOffset (s : State) (f : Flag) (b : Bool) (ea : Ea) : (s.setFlag f b).eaOffset ea = s.eaOffset ea := rfl
@[simp] theorem State.setFlag_byteAt (s : State) (f : Flag) (b : Bool) (g o : Word) : (s.setFlag f b).byteAt g o = s.byteAt g o := rfl
@[simp] theorem State.setFlag_wordAt (s : State) (f : Flag) (b : Bool) (g o : Word) : (s.setFlag f b).wordAt g o = s.wordAt g o := rfl
@[simp] theorem State.setFlag_plainAt (s : State) (f : Flag) (b : Bool) (g o : Word) : (s.setFlag f b).plainAt g o = s.plainAt g o := rfl
@[simp] theorem State.setFlag_plainWordAt (s : State) (f : Flag) (b : Bool) (g o : Word) : (s.setFlag f b).plainWordAt g o = s.plainWordAt g o := rfl

/-! ## A write to the whole FLAGS register -/

@[simp] theorem State.setFlags_regs (s : State) (v : Word) : (s.setFlags v).regs = s.regs := rfl
@[simp] theorem State.setFlags_segs (s : State) (v : Word) : (s.setFlags v).segs = s.segs := rfl
@[simp] theorem State.setFlags_ip (s : State) (v : Word) : (s.setFlags v).ip = s.ip := rfl
@[simp] theorem State.setFlags_pfx (s : State) (v : Word) : (s.setFlags v).pfx = s.pfx := rfl
@[simp] theorem State.setFlags_intr (s : State) (v : Word) : (s.setFlags v).intr = s.intr := rfl
@[simp] theorem State.setFlags_waiting (s : State) (v : Word) : (s.setFlags v).waiting = s.waiting := rfl
@[simp] theorem State.setFlags_entered (s : State) (v : Word) : (s.setFlags v).entered = s.entered := rfl
@[simp] theorem State.setFlags_entry (s : State) (v : Word) : (s.setFlags v).entry = s.entry := rfl
@[simp] theorem State.setFlags_mem (s : State) (v : Word) : (s.setFlags v).mem = s.mem := rfl
@[simp] theorem State.setFlags_events (s : State) (v : Word) : (s.setFlags v).events = s.events := rfl
@[simp] theorem State.setFlags_stale (s : State) (v : Word) : (s.setFlags v).stale = s.stale := rfl
@[simp] theorem State.setFlags_fetchRace (s : State) (v : Word) : (s.setFlags v).fetchRace = s.fetchRace := rfl
@[simp] theorem State.setFlags_biu (s : State) (v : Word) : (s.setFlags v).biu = s.biu := rfl
@[simp] theorem State.setFlags_bus (s : State) (v : Word) : (s.setFlags v).bus = s.bus := rfl
@[simp] theorem State.setFlags_lastBus (s : State) (v : Word) : (s.setFlags v).lastBus = s.lastBus := rfl
@[simp] theorem State.setFlags_devtm (s : State) (v : Word) : (s.setFlags v).devtm = s.devtm := rfl
@[simp] theorem State.setFlags_hostLines (s : State) (v : Word) : (s.setFlags v).hostLines = s.hostLines := rfl
@[simp] theorem State.setFlags_eng (s : State) (v : Word) : (s.setFlags v).eng = s.eng := rfl
@[simp] theorem State.setFlags_port (s : State) (v : Word) : (s.setFlags v).port = s.port := rfl
@[simp] theorem State.setFlags_draws (s : State) (v : Word) : (s.setFlags v).draws = s.draws := rfl
@[simp] theorem State.setFlags_busDraws (s : State) (v : Word) : (s.setFlags v).busDraws = s.busDraws := rfl
@[simp] theorem State.setFlags_inputs (s : State) (v : Word) : (s.setFlags v).inputs = s.inputs := rfl
@[simp] theorem State.setFlags_driver (s : State) (v : Word) : (s.setFlags v).driver = s.driver := rfl
@[simp] theorem State.setFlags_session (s : State) (v : Word) : (s.setFlags v).session = s.session := rfl
@[simp] theorem State.setFlags_cfg (s : State) (v : Word) : (s.setFlags v).cfg = s.cfg := rfl
@[simp] theorem State.setFlags_reg16 (s : State) (v : Word) (q : Reg16) : (s.setFlags v).reg16 q = s.reg16 q := rfl
@[simp] theorem State.setFlags_reg8 (s : State) (v : Word) (q : Reg8) : (s.setFlags v).reg8 q = s.reg8 q := rfl
@[simp] theorem State.setFlags_seg (s : State) (v : Word) (q : SReg) : (s.setFlags v).seg q = s.seg q := rfl
@[simp] theorem State.setFlags_operandSeg (s : State) (v : Word) (d : SReg) : (s.setFlags v).operandSeg d = s.operandSeg d := rfl
@[simp] theorem State.setFlags_eaOffset (s : State) (v : Word) (ea : Ea) : (s.setFlags v).eaOffset ea = s.eaOffset ea := rfl
@[simp] theorem State.setFlags_byteAt (s : State) (v : Word) (g o : Word) : (s.setFlags v).byteAt g o = s.byteAt g o := rfl
@[simp] theorem State.setFlags_wordAt (s : State) (v : Word) (g o : Word) : (s.setFlags v).wordAt g o = s.wordAt g o := rfl
@[simp] theorem State.setFlags_plainAt (s : State) (v : Word) (g o : Word) : (s.setFlags v).plainAt g o = s.plainAt g o := rfl
@[simp] theorem State.setFlags_plainWordAt (s : State) (v : Word) (g o : Word) : (s.setFlags v).plainWordAt g o = s.plainWordAt g o := rfl

/-! ## A free bit -/

@[simp] theorem State.drawBit_regs (s : State) : s.drawBit.2.regs = s.regs := rfl
@[simp] theorem State.drawBit_segs (s : State) : s.drawBit.2.segs = s.segs := rfl
@[simp] theorem State.drawBit_ip (s : State) : s.drawBit.2.ip = s.ip := rfl
@[simp] theorem State.drawBit_flags (s : State) : s.drawBit.2.flags = s.flags := rfl
@[simp] theorem State.drawBit_pfx (s : State) : s.drawBit.2.pfx = s.pfx := rfl
@[simp] theorem State.drawBit_intr (s : State) : s.drawBit.2.intr = s.intr := rfl
@[simp] theorem State.drawBit_waiting (s : State) : s.drawBit.2.waiting = s.waiting := rfl
@[simp] theorem State.drawBit_entered (s : State) : s.drawBit.2.entered = s.entered := rfl
@[simp] theorem State.drawBit_entry (s : State) : s.drawBit.2.entry = s.entry := rfl
@[simp] theorem State.drawBit_mem (s : State) : s.drawBit.2.mem = s.mem := rfl
@[simp] theorem State.drawBit_events (s : State) : s.drawBit.2.events = s.events := rfl
@[simp] theorem State.drawBit_stale (s : State) : s.drawBit.2.stale = s.stale := rfl
@[simp] theorem State.drawBit_fetchRace (s : State) : s.drawBit.2.fetchRace = s.fetchRace := rfl
@[simp] theorem State.drawBit_biu (s : State) : s.drawBit.2.biu = s.biu := rfl
@[simp] theorem State.drawBit_bus (s : State) : s.drawBit.2.bus = s.bus := rfl
@[simp] theorem State.drawBit_lastBus (s : State) : s.drawBit.2.lastBus = s.lastBus := rfl
@[simp] theorem State.drawBit_devtm (s : State) : s.drawBit.2.devtm = s.devtm := rfl
@[simp] theorem State.drawBit_hostLines (s : State) : s.drawBit.2.hostLines = s.hostLines := rfl
@[simp] theorem State.drawBit_eng (s : State) : s.drawBit.2.eng = s.eng := rfl
@[simp] theorem State.drawBit_port (s : State) : s.drawBit.2.port = s.port := rfl
@[simp] theorem State.drawBit_busDraws (s : State) : s.drawBit.2.busDraws = s.busDraws := rfl
@[simp] theorem State.drawBit_inputs (s : State) : s.drawBit.2.inputs = s.inputs := rfl
@[simp] theorem State.drawBit_driver (s : State) : s.drawBit.2.driver = s.driver := rfl
@[simp] theorem State.drawBit_session (s : State) : s.drawBit.2.session = s.session := rfl
@[simp] theorem State.drawBit_cfg (s : State) : s.drawBit.2.cfg = s.cfg := rfl
@[simp] theorem State.drawBit_reg16 (s : State) (q : Reg16) : s.drawBit.2.reg16 q = s.reg16 q := rfl
@[simp] theorem State.drawBit_reg8 (s : State) (q : Reg8) : s.drawBit.2.reg8 q = s.reg8 q := rfl
@[simp] theorem State.drawBit_seg (s : State) (q : SReg) : s.drawBit.2.seg q = s.seg q := rfl
@[simp] theorem State.drawBit_flag (s : State) (g : Flag) : s.drawBit.2.flag g = s.flag g := rfl
@[simp] theorem State.drawBit_flagsWord (s : State) : s.drawBit.2.flagsWord = s.flagsWord := rfl
@[simp] theorem State.drawBit_operandSeg (s : State) (d : SReg) : s.drawBit.2.operandSeg d = s.operandSeg d := rfl
@[simp] theorem State.drawBit_eaOffset (s : State) (ea : Ea) : s.drawBit.2.eaOffset ea = s.eaOffset ea := rfl
@[simp] theorem State.drawBit_byteAt (s : State) (g o : Word) : s.drawBit.2.byteAt g o = s.byteAt g o := rfl
@[simp] theorem State.drawBit_wordAt (s : State) (g o : Word) : s.drawBit.2.wordAt g o = s.wordAt g o := rfl
@[simp] theorem State.drawBit_plainAt (s : State) (g o : Word) : s.drawBit.2.plainAt g o = s.plainAt g o := rfl
@[simp] theorem State.drawBit_plainWordAt (s : State) (g o : Word) : s.drawBit.2.plainWordAt g o = s.plainWordAt g o := rfl

/-! ## A free word -/

@[simp] theorem State.drawWord_regs (s : State) : s.drawWord.2.regs = s.regs := rfl
@[simp] theorem State.drawWord_segs (s : State) : s.drawWord.2.segs = s.segs := rfl
@[simp] theorem State.drawWord_ip (s : State) : s.drawWord.2.ip = s.ip := rfl
@[simp] theorem State.drawWord_flags (s : State) : s.drawWord.2.flags = s.flags := rfl
@[simp] theorem State.drawWord_pfx (s : State) : s.drawWord.2.pfx = s.pfx := rfl
@[simp] theorem State.drawWord_intr (s : State) : s.drawWord.2.intr = s.intr := rfl
@[simp] theorem State.drawWord_waiting (s : State) : s.drawWord.2.waiting = s.waiting := rfl
@[simp] theorem State.drawWord_entered (s : State) : s.drawWord.2.entered = s.entered := rfl
@[simp] theorem State.drawWord_entry (s : State) : s.drawWord.2.entry = s.entry := rfl
@[simp] theorem State.drawWord_mem (s : State) : s.drawWord.2.mem = s.mem := rfl
@[simp] theorem State.drawWord_events (s : State) : s.drawWord.2.events = s.events := rfl
@[simp] theorem State.drawWord_stale (s : State) : s.drawWord.2.stale = s.stale := rfl
@[simp] theorem State.drawWord_fetchRace (s : State) : s.drawWord.2.fetchRace = s.fetchRace := rfl
@[simp] theorem State.drawWord_biu (s : State) : s.drawWord.2.biu = s.biu := rfl
@[simp] theorem State.drawWord_bus (s : State) : s.drawWord.2.bus = s.bus := rfl
@[simp] theorem State.drawWord_lastBus (s : State) : s.drawWord.2.lastBus = s.lastBus := rfl
@[simp] theorem State.drawWord_devtm (s : State) : s.drawWord.2.devtm = s.devtm := rfl
@[simp] theorem State.drawWord_hostLines (s : State) : s.drawWord.2.hostLines = s.hostLines := rfl
@[simp] theorem State.drawWord_eng (s : State) : s.drawWord.2.eng = s.eng := rfl
@[simp] theorem State.drawWord_port (s : State) : s.drawWord.2.port = s.port := rfl
@[simp] theorem State.drawWord_busDraws (s : State) : s.drawWord.2.busDraws = s.busDraws := rfl
@[simp] theorem State.drawWord_inputs (s : State) : s.drawWord.2.inputs = s.inputs := rfl
@[simp] theorem State.drawWord_driver (s : State) : s.drawWord.2.driver = s.driver := rfl
@[simp] theorem State.drawWord_session (s : State) : s.drawWord.2.session = s.session := rfl
@[simp] theorem State.drawWord_cfg (s : State) : s.drawWord.2.cfg = s.cfg := rfl
@[simp] theorem State.drawWord_reg16 (s : State) (q : Reg16) : s.drawWord.2.reg16 q = s.reg16 q := rfl
@[simp] theorem State.drawWord_reg8 (s : State) (q : Reg8) : s.drawWord.2.reg8 q = s.reg8 q := rfl
@[simp] theorem State.drawWord_seg (s : State) (q : SReg) : s.drawWord.2.seg q = s.seg q := rfl
@[simp] theorem State.drawWord_flag (s : State) (g : Flag) : s.drawWord.2.flag g = s.flag g := rfl
@[simp] theorem State.drawWord_flagsWord (s : State) : s.drawWord.2.flagsWord = s.flagsWord := rfl
@[simp] theorem State.drawWord_operandSeg (s : State) (d : SReg) : s.drawWord.2.operandSeg d = s.operandSeg d := rfl
@[simp] theorem State.drawWord_eaOffset (s : State) (ea : Ea) : s.drawWord.2.eaOffset ea = s.eaOffset ea := rfl
@[simp] theorem State.drawWord_byteAt (s : State) (g o : Word) : s.drawWord.2.byteAt g o = s.byteAt g o := rfl
@[simp] theorem State.drawWord_wordAt (s : State) (g o : Word) : s.drawWord.2.wordAt g o = s.wordAt g o := rfl
@[simp] theorem State.drawWord_plainAt (s : State) (g o : Word) : s.drawWord.2.plainAt g o = s.plainAt g o := rfl
@[simp] theorem State.drawWord_plainWordAt (s : State) (g o : Word) : s.drawWord.2.plainWordAt g o = s.plainWordAt g o := rfl

/-! ## A free number -/

@[simp] theorem State.drawNat_regs (s : State) : s.drawNat.2.regs = s.regs := rfl
@[simp] theorem State.drawNat_segs (s : State) : s.drawNat.2.segs = s.segs := rfl
@[simp] theorem State.drawNat_ip (s : State) : s.drawNat.2.ip = s.ip := rfl
@[simp] theorem State.drawNat_flags (s : State) : s.drawNat.2.flags = s.flags := rfl
@[simp] theorem State.drawNat_pfx (s : State) : s.drawNat.2.pfx = s.pfx := rfl
@[simp] theorem State.drawNat_intr (s : State) : s.drawNat.2.intr = s.intr := rfl
@[simp] theorem State.drawNat_waiting (s : State) : s.drawNat.2.waiting = s.waiting := rfl
@[simp] theorem State.drawNat_entered (s : State) : s.drawNat.2.entered = s.entered := rfl
@[simp] theorem State.drawNat_entry (s : State) : s.drawNat.2.entry = s.entry := rfl
@[simp] theorem State.drawNat_mem (s : State) : s.drawNat.2.mem = s.mem := rfl
@[simp] theorem State.drawNat_events (s : State) : s.drawNat.2.events = s.events := rfl
@[simp] theorem State.drawNat_stale (s : State) : s.drawNat.2.stale = s.stale := rfl
@[simp] theorem State.drawNat_fetchRace (s : State) : s.drawNat.2.fetchRace = s.fetchRace := rfl
@[simp] theorem State.drawNat_biu (s : State) : s.drawNat.2.biu = s.biu := rfl
@[simp] theorem State.drawNat_bus (s : State) : s.drawNat.2.bus = s.bus := rfl
@[simp] theorem State.drawNat_lastBus (s : State) : s.drawNat.2.lastBus = s.lastBus := rfl
@[simp] theorem State.drawNat_devtm (s : State) : s.drawNat.2.devtm = s.devtm := rfl
@[simp] theorem State.drawNat_hostLines (s : State) : s.drawNat.2.hostLines = s.hostLines := rfl
@[simp] theorem State.drawNat_eng (s : State) : s.drawNat.2.eng = s.eng := rfl
@[simp] theorem State.drawNat_port (s : State) : s.drawNat.2.port = s.port := rfl
@[simp] theorem State.drawNat_busDraws (s : State) : s.drawNat.2.busDraws = s.busDraws := rfl
@[simp] theorem State.drawNat_inputs (s : State) : s.drawNat.2.inputs = s.inputs := rfl
@[simp] theorem State.drawNat_driver (s : State) : s.drawNat.2.driver = s.driver := rfl
@[simp] theorem State.drawNat_session (s : State) : s.drawNat.2.session = s.session := rfl
@[simp] theorem State.drawNat_cfg (s : State) : s.drawNat.2.cfg = s.cfg := rfl
@[simp] theorem State.drawNat_reg16 (s : State) (q : Reg16) : s.drawNat.2.reg16 q = s.reg16 q := rfl
@[simp] theorem State.drawNat_reg8 (s : State) (q : Reg8) : s.drawNat.2.reg8 q = s.reg8 q := rfl
@[simp] theorem State.drawNat_seg (s : State) (q : SReg) : s.drawNat.2.seg q = s.seg q := rfl
@[simp] theorem State.drawNat_flag (s : State) (g : Flag) : s.drawNat.2.flag g = s.flag g := rfl
@[simp] theorem State.drawNat_flagsWord (s : State) : s.drawNat.2.flagsWord = s.flagsWord := rfl
@[simp] theorem State.drawNat_operandSeg (s : State) (d : SReg) : s.drawNat.2.operandSeg d = s.operandSeg d := rfl
@[simp] theorem State.drawNat_eaOffset (s : State) (ea : Ea) : s.drawNat.2.eaOffset ea = s.eaOffset ea := rfl
@[simp] theorem State.drawNat_byteAt (s : State) (g o : Word) : s.drawNat.2.byteAt g o = s.byteAt g o := rfl
@[simp] theorem State.drawNat_wordAt (s : State) (g o : Word) : s.drawNat.2.wordAt g o = s.wordAt g o := rfl
@[simp] theorem State.drawNat_plainAt (s : State) (g o : Word) : s.drawNat.2.plainAt g o = s.plainAt g o := rfl
@[simp] theorem State.drawNat_plainWordAt (s : State) (g o : Word) : s.drawNat.2.plainWordAt g o = s.plainWordAt g o := rfl

/-! ## A free byte of the bus -/

@[simp] theorem State.drawBusByte_regs (s : State) : s.drawBusByte.2.regs = s.regs := rfl
@[simp] theorem State.drawBusByte_segs (s : State) : s.drawBusByte.2.segs = s.segs := rfl
@[simp] theorem State.drawBusByte_ip (s : State) : s.drawBusByte.2.ip = s.ip := rfl
@[simp] theorem State.drawBusByte_flags (s : State) : s.drawBusByte.2.flags = s.flags := rfl
@[simp] theorem State.drawBusByte_pfx (s : State) : s.drawBusByte.2.pfx = s.pfx := rfl
@[simp] theorem State.drawBusByte_intr (s : State) : s.drawBusByte.2.intr = s.intr := rfl
@[simp] theorem State.drawBusByte_waiting (s : State) : s.drawBusByte.2.waiting = s.waiting := rfl
@[simp] theorem State.drawBusByte_entered (s : State) : s.drawBusByte.2.entered = s.entered := rfl
@[simp] theorem State.drawBusByte_entry (s : State) : s.drawBusByte.2.entry = s.entry := rfl
@[simp] theorem State.drawBusByte_mem (s : State) : s.drawBusByte.2.mem = s.mem := rfl
@[simp] theorem State.drawBusByte_events (s : State) : s.drawBusByte.2.events = s.events := rfl
@[simp] theorem State.drawBusByte_stale (s : State) : s.drawBusByte.2.stale = s.stale := rfl
@[simp] theorem State.drawBusByte_fetchRace (s : State) : s.drawBusByte.2.fetchRace = s.fetchRace := rfl
@[simp] theorem State.drawBusByte_biu (s : State) : s.drawBusByte.2.biu = s.biu := rfl
@[simp] theorem State.drawBusByte_bus (s : State) : s.drawBusByte.2.bus = s.bus := rfl
@[simp] theorem State.drawBusByte_lastBus (s : State) : s.drawBusByte.2.lastBus = s.lastBus := rfl
@[simp] theorem State.drawBusByte_devtm (s : State) : s.drawBusByte.2.devtm = s.devtm := rfl
@[simp] theorem State.drawBusByte_hostLines (s : State) : s.drawBusByte.2.hostLines = s.hostLines := rfl
@[simp] theorem State.drawBusByte_eng (s : State) : s.drawBusByte.2.eng = s.eng := rfl
@[simp] theorem State.drawBusByte_port (s : State) : s.drawBusByte.2.port = s.port := rfl
@[simp] theorem State.drawBusByte_draws (s : State) : s.drawBusByte.2.draws = s.draws := rfl
@[simp] theorem State.drawBusByte_inputs (s : State) : s.drawBusByte.2.inputs = s.inputs := rfl
@[simp] theorem State.drawBusByte_driver (s : State) : s.drawBusByte.2.driver = s.driver := rfl
@[simp] theorem State.drawBusByte_session (s : State) : s.drawBusByte.2.session = s.session := rfl
@[simp] theorem State.drawBusByte_cfg (s : State) : s.drawBusByte.2.cfg = s.cfg := rfl
@[simp] theorem State.drawBusByte_reg16 (s : State) (q : Reg16) : s.drawBusByte.2.reg16 q = s.reg16 q := rfl
@[simp] theorem State.drawBusByte_reg8 (s : State) (q : Reg8) : s.drawBusByte.2.reg8 q = s.reg8 q := rfl
@[simp] theorem State.drawBusByte_seg (s : State) (q : SReg) : s.drawBusByte.2.seg q = s.seg q := rfl
@[simp] theorem State.drawBusByte_flag (s : State) (g : Flag) : s.drawBusByte.2.flag g = s.flag g := rfl
@[simp] theorem State.drawBusByte_flagsWord (s : State) : s.drawBusByte.2.flagsWord = s.flagsWord := rfl
@[simp] theorem State.drawBusByte_operandSeg (s : State) (d : SReg) : s.drawBusByte.2.operandSeg d = s.operandSeg d := rfl
@[simp] theorem State.drawBusByte_eaOffset (s : State) (ea : Ea) : s.drawBusByte.2.eaOffset ea = s.eaOffset ea := rfl
@[simp] theorem State.drawBusByte_byteAt (s : State) (g o : Word) : s.drawBusByte.2.byteAt g o = s.byteAt g o := rfl
@[simp] theorem State.drawBusByte_wordAt (s : State) (g o : Word) : s.drawBusByte.2.wordAt g o = s.wordAt g o := rfl
@[simp] theorem State.drawBusByte_plainAt (s : State) (g o : Word) : s.drawBusByte.2.plainAt g o = s.plainAt g o := rfl
@[simp] theorem State.drawBusByte_plainWordAt (s : State) (g o : Word) : s.drawBusByte.2.plainWordAt g o = s.plainWordAt g o := rfl

/-! ## The code bytes a store may have missed -/

@[simp] theorem State.noteStale_regs (s : State) (a : PAddr) : (s.noteStale a).regs = s.regs := rfl
@[simp] theorem State.noteStale_segs (s : State) (a : PAddr) : (s.noteStale a).segs = s.segs := rfl
@[simp] theorem State.noteStale_ip (s : State) (a : PAddr) : (s.noteStale a).ip = s.ip := rfl
@[simp] theorem State.noteStale_flags (s : State) (a : PAddr) : (s.noteStale a).flags = s.flags := rfl
@[simp] theorem State.noteStale_pfx (s : State) (a : PAddr) : (s.noteStale a).pfx = s.pfx := rfl
@[simp] theorem State.noteStale_intr (s : State) (a : PAddr) : (s.noteStale a).intr = s.intr := rfl
@[simp] theorem State.noteStale_waiting (s : State) (a : PAddr) : (s.noteStale a).waiting = s.waiting := rfl
@[simp] theorem State.noteStale_entered (s : State) (a : PAddr) : (s.noteStale a).entered = s.entered := rfl
@[simp] theorem State.noteStale_entry (s : State) (a : PAddr) : (s.noteStale a).entry = s.entry := rfl
@[simp] theorem State.noteStale_mem (s : State) (a : PAddr) : (s.noteStale a).mem = s.mem := rfl
@[simp] theorem State.noteStale_events (s : State) (a : PAddr) : (s.noteStale a).events = s.events := rfl
@[simp] theorem State.noteStale_fetchRace (s : State) (a : PAddr) : (s.noteStale a).fetchRace = s.fetchRace := rfl
@[simp] theorem State.noteStale_biu (s : State) (a : PAddr) : (s.noteStale a).biu = s.biu := rfl
@[simp] theorem State.noteStale_bus (s : State) (a : PAddr) : (s.noteStale a).bus = s.bus := rfl
@[simp] theorem State.noteStale_lastBus (s : State) (a : PAddr) : (s.noteStale a).lastBus = s.lastBus := rfl
@[simp] theorem State.noteStale_devtm (s : State) (a : PAddr) : (s.noteStale a).devtm = s.devtm := rfl
@[simp] theorem State.noteStale_hostLines (s : State) (a : PAddr) : (s.noteStale a).hostLines = s.hostLines := rfl
@[simp] theorem State.noteStale_eng (s : State) (a : PAddr) : (s.noteStale a).eng = s.eng := rfl
@[simp] theorem State.noteStale_port (s : State) (a : PAddr) : (s.noteStale a).port = s.port := rfl
@[simp] theorem State.noteStale_draws (s : State) (a : PAddr) : (s.noteStale a).draws = s.draws := rfl
@[simp] theorem State.noteStale_busDraws (s : State) (a : PAddr) : (s.noteStale a).busDraws = s.busDraws := rfl
@[simp] theorem State.noteStale_inputs (s : State) (a : PAddr) : (s.noteStale a).inputs = s.inputs := rfl
@[simp] theorem State.noteStale_driver (s : State) (a : PAddr) : (s.noteStale a).driver = s.driver := rfl
@[simp] theorem State.noteStale_session (s : State) (a : PAddr) : (s.noteStale a).session = s.session := rfl
@[simp] theorem State.noteStale_cfg (s : State) (a : PAddr) : (s.noteStale a).cfg = s.cfg := rfl
@[simp] theorem State.noteStale_reg16 (s : State) (a : PAddr) (q : Reg16) : (s.noteStale a).reg16 q = s.reg16 q := rfl
@[simp] theorem State.noteStale_reg8 (s : State) (a : PAddr) (q : Reg8) : (s.noteStale a).reg8 q = s.reg8 q := rfl
@[simp] theorem State.noteStale_seg (s : State) (a : PAddr) (q : SReg) : (s.noteStale a).seg q = s.seg q := rfl
@[simp] theorem State.noteStale_flag (s : State) (a : PAddr) (g : Flag) : (s.noteStale a).flag g = s.flag g := rfl
@[simp] theorem State.noteStale_flagsWord (s : State) (a : PAddr) : (s.noteStale a).flagsWord = s.flagsWord := rfl
@[simp] theorem State.noteStale_operandSeg (s : State) (a : PAddr) (d : SReg) : (s.noteStale a).operandSeg d = s.operandSeg d := rfl
@[simp] theorem State.noteStale_eaOffset (s : State) (a : PAddr) (ea : Ea) : (s.noteStale a).eaOffset ea = s.eaOffset ea := rfl
@[simp] theorem State.noteStale_byteAt (s : State) (a : PAddr) (g o : Word) : (s.noteStale a).byteAt g o = s.byteAt g o := rfl
@[simp] theorem State.noteStale_wordAt (s : State) (a : PAddr) (g o : Word) : (s.noteStale a).wordAt g o = s.wordAt g o := rfl
@[simp] theorem State.noteStale_plainAt (s : State) (a : PAddr) (g o : Word) : (s.noteStale a).plainAt g o = s.plainAt g o := rfl
@[simp] theorem State.noteStale_plainWordAt (s : State) (a : PAddr) (g o : Word) : (s.noteStale a).plainWordAt g o = s.plainWordAt g o := rfl

/-! ## The prefetch flush -/

@[simp] theorem State.flush_regs (s : State) : s.flush.regs = s.regs := rfl
@[simp] theorem State.flush_segs (s : State) : s.flush.segs = s.segs := rfl
@[simp] theorem State.flush_ip (s : State) : s.flush.ip = s.ip := rfl
@[simp] theorem State.flush_flags (s : State) : s.flush.flags = s.flags := rfl
@[simp] theorem State.flush_pfx (s : State) : s.flush.pfx = s.pfx := rfl
@[simp] theorem State.flush_intr (s : State) : s.flush.intr = s.intr := rfl
@[simp] theorem State.flush_waiting (s : State) : s.flush.waiting = s.waiting := rfl
@[simp] theorem State.flush_entered (s : State) : s.flush.entered = s.entered := rfl
@[simp] theorem State.flush_entry (s : State) : s.flush.entry = s.entry := rfl
@[simp] theorem State.flush_mem (s : State) : s.flush.mem = s.mem := rfl
@[simp] theorem State.flush_events (s : State) : s.flush.events = s.events := rfl
@[simp] theorem State.flush_bus (s : State) : s.flush.bus = s.bus := rfl
@[simp] theorem State.flush_lastBus (s : State) : s.flush.lastBus = s.lastBus := rfl
@[simp] theorem State.flush_devtm (s : State) : s.flush.devtm = s.devtm := rfl
@[simp] theorem State.flush_hostLines (s : State) : s.flush.hostLines = s.hostLines := rfl
@[simp] theorem State.flush_eng (s : State) : s.flush.eng = s.eng := rfl
@[simp] theorem State.flush_port (s : State) : s.flush.port = s.port := rfl
@[simp] theorem State.flush_draws (s : State) : s.flush.draws = s.draws := rfl
@[simp] theorem State.flush_busDraws (s : State) : s.flush.busDraws = s.busDraws := rfl
@[simp] theorem State.flush_inputs (s : State) : s.flush.inputs = s.inputs := rfl
@[simp] theorem State.flush_driver (s : State) : s.flush.driver = s.driver := rfl
@[simp] theorem State.flush_session (s : State) : s.flush.session = s.session := rfl
@[simp] theorem State.flush_cfg (s : State) : s.flush.cfg = s.cfg := rfl
@[simp] theorem State.flush_reg16 (s : State) (q : Reg16) : s.flush.reg16 q = s.reg16 q := rfl
@[simp] theorem State.flush_reg8 (s : State) (q : Reg8) : s.flush.reg8 q = s.reg8 q := rfl
@[simp] theorem State.flush_seg (s : State) (q : SReg) : s.flush.seg q = s.seg q := rfl
@[simp] theorem State.flush_flag (s : State) (g : Flag) : s.flush.flag g = s.flag g := rfl
@[simp] theorem State.flush_flagsWord (s : State) : s.flush.flagsWord = s.flagsWord := rfl
@[simp] theorem State.flush_operandSeg (s : State) (d : SReg) : s.flush.operandSeg d = s.operandSeg d := rfl
@[simp] theorem State.flush_eaOffset (s : State) (ea : Ea) : s.flush.eaOffset ea = s.eaOffset ea := rfl
@[simp] theorem State.flush_byteAt (s : State) (g o : Word) : s.flush.byteAt g o = s.byteAt g o := rfl
@[simp] theorem State.flush_wordAt (s : State) (g o : Word) : s.flush.wordAt g o = s.wordAt g o := rfl
@[simp] theorem State.flush_plainAt (s : State) (g o : Word) : s.flush.plainAt g o = s.plainAt g o := rfl
@[simp] theorem State.flush_plainWordAt (s : State) (g o : Word) : s.flush.plainWordAt g o = s.plainWordAt g o := rfl

/-! ## A near jump -/

@[simp] theorem State.jump_regs (s : State) (t : Word) : (s.jump t).regs = s.regs := rfl
@[simp] theorem State.jump_segs (s : State) (t : Word) : (s.jump t).segs = s.segs := rfl
@[simp] theorem State.jump_flags (s : State) (t : Word) : (s.jump t).flags = s.flags := rfl
@[simp] theorem State.jump_pfx (s : State) (t : Word) : (s.jump t).pfx = s.pfx := rfl
@[simp] theorem State.jump_intr (s : State) (t : Word) : (s.jump t).intr = s.intr := rfl
@[simp] theorem State.jump_waiting (s : State) (t : Word) : (s.jump t).waiting = s.waiting := rfl
@[simp] theorem State.jump_entered (s : State) (t : Word) : (s.jump t).entered = s.entered := rfl
@[simp] theorem State.jump_entry (s : State) (t : Word) : (s.jump t).entry = s.entry := rfl
@[simp] theorem State.jump_mem (s : State) (t : Word) : (s.jump t).mem = s.mem := rfl
@[simp] theorem State.jump_events (s : State) (t : Word) : (s.jump t).events = s.events := rfl
@[simp] theorem State.jump_bus (s : State) (t : Word) : (s.jump t).bus = s.bus := rfl
@[simp] theorem State.jump_lastBus (s : State) (t : Word) : (s.jump t).lastBus = s.lastBus := rfl
@[simp] theorem State.jump_devtm (s : State) (t : Word) : (s.jump t).devtm = s.devtm := rfl
@[simp] theorem State.jump_hostLines (s : State) (t : Word) : (s.jump t).hostLines = s.hostLines := rfl
@[simp] theorem State.jump_eng (s : State) (t : Word) : (s.jump t).eng = s.eng := rfl
@[simp] theorem State.jump_port (s : State) (t : Word) : (s.jump t).port = s.port := rfl
@[simp] theorem State.jump_draws (s : State) (t : Word) : (s.jump t).draws = s.draws := rfl
@[simp] theorem State.jump_busDraws (s : State) (t : Word) : (s.jump t).busDraws = s.busDraws := rfl
@[simp] theorem State.jump_inputs (s : State) (t : Word) : (s.jump t).inputs = s.inputs := rfl
@[simp] theorem State.jump_driver (s : State) (t : Word) : (s.jump t).driver = s.driver := rfl
@[simp] theorem State.jump_session (s : State) (t : Word) : (s.jump t).session = s.session := rfl
@[simp] theorem State.jump_cfg (s : State) (t : Word) : (s.jump t).cfg = s.cfg := rfl
@[simp] theorem State.jump_reg16 (s : State) (t : Word) (q : Reg16) : (s.jump t).reg16 q = s.reg16 q := rfl
@[simp] theorem State.jump_reg8 (s : State) (t : Word) (q : Reg8) : (s.jump t).reg8 q = s.reg8 q := rfl
@[simp] theorem State.jump_seg (s : State) (t : Word) (q : SReg) : (s.jump t).seg q = s.seg q := rfl
@[simp] theorem State.jump_flag (s : State) (t : Word) (g : Flag) : (s.jump t).flag g = s.flag g := rfl
@[simp] theorem State.jump_flagsWord (s : State) (t : Word) : (s.jump t).flagsWord = s.flagsWord := rfl
@[simp] theorem State.jump_operandSeg (s : State) (t : Word) (d : SReg) : (s.jump t).operandSeg d = s.operandSeg d := rfl
@[simp] theorem State.jump_eaOffset (s : State) (t : Word) (ea : Ea) : (s.jump t).eaOffset ea = s.eaOffset ea := rfl
@[simp] theorem State.jump_byteAt (s : State) (t : Word) (g o : Word) : (s.jump t).byteAt g o = s.byteAt g o := rfl
@[simp] theorem State.jump_wordAt (s : State) (t : Word) (g o : Word) : (s.jump t).wordAt g o = s.wordAt g o := rfl
@[simp] theorem State.jump_plainAt (s : State) (t : Word) (g o : Word) : (s.jump t).plainAt g o = s.plainAt g o := rfl
@[simp] theorem State.jump_plainWordAt (s : State) (t : Word) (g o : Word) : (s.jump t).plainWordAt g o = s.plainWordAt g o := rfl

/-! ## A far jump -/

@[simp] theorem State.farJump_regs (s : State) (c t : Word) : (s.farJump c t).regs = s.regs := rfl
@[simp] theorem State.farJump_flags (s : State) (c t : Word) : (s.farJump c t).flags = s.flags := rfl
@[simp] theorem State.farJump_pfx (s : State) (c t : Word) : (s.farJump c t).pfx = s.pfx := rfl
@[simp] theorem State.farJump_intr (s : State) (c t : Word) : (s.farJump c t).intr = s.intr := rfl
@[simp] theorem State.farJump_waiting (s : State) (c t : Word) : (s.farJump c t).waiting = s.waiting := rfl
@[simp] theorem State.farJump_entered (s : State) (c t : Word) : (s.farJump c t).entered = s.entered := rfl
@[simp] theorem State.farJump_entry (s : State) (c t : Word) : (s.farJump c t).entry = s.entry := rfl
@[simp] theorem State.farJump_mem (s : State) (c t : Word) : (s.farJump c t).mem = s.mem := rfl
@[simp] theorem State.farJump_events (s : State) (c t : Word) : (s.farJump c t).events = s.events := rfl
@[simp] theorem State.farJump_bus (s : State) (c t : Word) : (s.farJump c t).bus = s.bus := rfl
@[simp] theorem State.farJump_lastBus (s : State) (c t : Word) : (s.farJump c t).lastBus = s.lastBus := rfl
@[simp] theorem State.farJump_devtm (s : State) (c t : Word) : (s.farJump c t).devtm = s.devtm := rfl
@[simp] theorem State.farJump_hostLines (s : State) (c t : Word) : (s.farJump c t).hostLines = s.hostLines := rfl
@[simp] theorem State.farJump_eng (s : State) (c t : Word) : (s.farJump c t).eng = s.eng := rfl
@[simp] theorem State.farJump_port (s : State) (c t : Word) : (s.farJump c t).port = s.port := rfl
@[simp] theorem State.farJump_draws (s : State) (c t : Word) : (s.farJump c t).draws = s.draws := rfl
@[simp] theorem State.farJump_busDraws (s : State) (c t : Word) : (s.farJump c t).busDraws = s.busDraws := rfl
@[simp] theorem State.farJump_inputs (s : State) (c t : Word) : (s.farJump c t).inputs = s.inputs := rfl
@[simp] theorem State.farJump_driver (s : State) (c t : Word) : (s.farJump c t).driver = s.driver := rfl
@[simp] theorem State.farJump_session (s : State) (c t : Word) : (s.farJump c t).session = s.session := rfl
@[simp] theorem State.farJump_cfg (s : State) (c t : Word) : (s.farJump c t).cfg = s.cfg := rfl
@[simp] theorem State.farJump_reg16 (s : State) (c t : Word) (q : Reg16) : (s.farJump c t).reg16 q = s.reg16 q := rfl
@[simp] theorem State.farJump_reg8 (s : State) (c t : Word) (q : Reg8) : (s.farJump c t).reg8 q = s.reg8 q := rfl
@[simp] theorem State.farJump_flag (s : State) (c t : Word) (g : Flag) : (s.farJump c t).flag g = s.flag g := rfl
@[simp] theorem State.farJump_flagsWord (s : State) (c t : Word) : (s.farJump c t).flagsWord = s.flagsWord := rfl
@[simp] theorem State.farJump_eaOffset (s : State) (c t : Word) (ea : Ea) : (s.farJump c t).eaOffset ea = s.eaOffset ea := rfl
@[simp] theorem State.farJump_byteAt (s : State) (c t : Word) (g o : Word) : (s.farJump c t).byteAt g o = s.byteAt g o := rfl
@[simp] theorem State.farJump_wordAt (s : State) (c t : Word) (g o : Word) : (s.farJump c t).wordAt g o = s.wordAt g o := rfl
@[simp] theorem State.farJump_plainAt (s : State) (c t : Word) (g o : Word) : (s.farJump c t).plainAt g o = s.plainAt g o := rfl
@[simp] theorem State.farJump_plainWordAt (s : State) (c t : Word) (g o : Word) : (s.farJump c t).plainWordAt g o = s.plainWordAt g o := rfl

/-! ## The interrupt shadow -/

@[simp] theorem State.setShadow_regs (s : State) : s.setShadow.regs = s.regs := rfl
@[simp] theorem State.setShadow_segs (s : State) : s.setShadow.segs = s.segs := rfl
@[simp] theorem State.setShadow_ip (s : State) : s.setShadow.ip = s.ip := rfl
@[simp] theorem State.setShadow_flags (s : State) : s.setShadow.flags = s.flags := rfl
@[simp] theorem State.setShadow_pfx (s : State) : s.setShadow.pfx = s.pfx := rfl
@[simp] theorem State.setShadow_waiting (s : State) : s.setShadow.waiting = s.waiting := rfl
@[simp] theorem State.setShadow_entered (s : State) : s.setShadow.entered = s.entered := rfl
@[simp] theorem State.setShadow_entry (s : State) : s.setShadow.entry = s.entry := rfl
@[simp] theorem State.setShadow_mem (s : State) : s.setShadow.mem = s.mem := rfl
@[simp] theorem State.setShadow_events (s : State) : s.setShadow.events = s.events := rfl
@[simp] theorem State.setShadow_stale (s : State) : s.setShadow.stale = s.stale := rfl
@[simp] theorem State.setShadow_fetchRace (s : State) : s.setShadow.fetchRace = s.fetchRace := rfl
@[simp] theorem State.setShadow_biu (s : State) : s.setShadow.biu = s.biu := rfl
@[simp] theorem State.setShadow_bus (s : State) : s.setShadow.bus = s.bus := rfl
@[simp] theorem State.setShadow_lastBus (s : State) : s.setShadow.lastBus = s.lastBus := rfl
@[simp] theorem State.setShadow_devtm (s : State) : s.setShadow.devtm = s.devtm := rfl
@[simp] theorem State.setShadow_hostLines (s : State) : s.setShadow.hostLines = s.hostLines := rfl
@[simp] theorem State.setShadow_eng (s : State) : s.setShadow.eng = s.eng := rfl
@[simp] theorem State.setShadow_port (s : State) : s.setShadow.port = s.port := rfl
@[simp] theorem State.setShadow_draws (s : State) : s.setShadow.draws = s.draws := rfl
@[simp] theorem State.setShadow_busDraws (s : State) : s.setShadow.busDraws = s.busDraws := rfl
@[simp] theorem State.setShadow_inputs (s : State) : s.setShadow.inputs = s.inputs := rfl
@[simp] theorem State.setShadow_driver (s : State) : s.setShadow.driver = s.driver := rfl
@[simp] theorem State.setShadow_session (s : State) : s.setShadow.session = s.session := rfl
@[simp] theorem State.setShadow_cfg (s : State) : s.setShadow.cfg = s.cfg := rfl
@[simp] theorem State.setShadow_reg16 (s : State) (q : Reg16) : s.setShadow.reg16 q = s.reg16 q := rfl
@[simp] theorem State.setShadow_reg8 (s : State) (q : Reg8) : s.setShadow.reg8 q = s.reg8 q := rfl
@[simp] theorem State.setShadow_seg (s : State) (q : SReg) : s.setShadow.seg q = s.seg q := rfl
@[simp] theorem State.setShadow_flag (s : State) (g : Flag) : s.setShadow.flag g = s.flag g := rfl
@[simp] theorem State.setShadow_flagsWord (s : State) : s.setShadow.flagsWord = s.flagsWord := rfl
@[simp] theorem State.setShadow_operandSeg (s : State) (d : SReg) : s.setShadow.operandSeg d = s.operandSeg d := rfl
@[simp] theorem State.setShadow_eaOffset (s : State) (ea : Ea) : s.setShadow.eaOffset ea = s.eaOffset ea := rfl
@[simp] theorem State.setShadow_byteAt (s : State) (g o : Word) : s.setShadow.byteAt g o = s.byteAt g o := rfl
@[simp] theorem State.setShadow_wordAt (s : State) (g o : Word) : s.setShadow.wordAt g o = s.wordAt g o := rfl
@[simp] theorem State.setShadow_plainAt (s : State) (g o : Word) : s.setShadow.plainAt g o = s.plainAt g o := rfl
@[simp] theorem State.setShadow_plainWordAt (s : State) (g o : Word) : s.setShadow.plainWordAt g o = s.plainWordAt g o := rfl

/-! ## A prefix byte -/

@[simp] theorem State.notePrefix_regs (s : State) (p : Pfx) : (s.notePrefix p).regs = s.regs := rfl
@[simp] theorem State.notePrefix_segs (s : State) (p : Pfx) : (s.notePrefix p).segs = s.segs := rfl
@[simp] theorem State.notePrefix_ip (s : State) (p : Pfx) : (s.notePrefix p).ip = s.ip := rfl
@[simp] theorem State.notePrefix_flags (s : State) (p : Pfx) : (s.notePrefix p).flags = s.flags := rfl
@[simp] theorem State.notePrefix_intr (s : State) (p : Pfx) : (s.notePrefix p).intr = s.intr := rfl
@[simp] theorem State.notePrefix_waiting (s : State) (p : Pfx) : (s.notePrefix p).waiting = s.waiting := rfl
@[simp] theorem State.notePrefix_entered (s : State) (p : Pfx) : (s.notePrefix p).entered = s.entered := rfl
@[simp] theorem State.notePrefix_entry (s : State) (p : Pfx) : (s.notePrefix p).entry = s.entry := rfl
@[simp] theorem State.notePrefix_mem (s : State) (p : Pfx) : (s.notePrefix p).mem = s.mem := rfl
@[simp] theorem State.notePrefix_events (s : State) (p : Pfx) : (s.notePrefix p).events = s.events := rfl
@[simp] theorem State.notePrefix_stale (s : State) (p : Pfx) : (s.notePrefix p).stale = s.stale := rfl
@[simp] theorem State.notePrefix_fetchRace (s : State) (p : Pfx) : (s.notePrefix p).fetchRace = s.fetchRace := rfl
@[simp] theorem State.notePrefix_biu (s : State) (p : Pfx) : (s.notePrefix p).biu = s.biu := rfl
@[simp] theorem State.notePrefix_bus (s : State) (p : Pfx) : (s.notePrefix p).bus = s.bus := rfl
@[simp] theorem State.notePrefix_lastBus (s : State) (p : Pfx) : (s.notePrefix p).lastBus = s.lastBus := rfl
@[simp] theorem State.notePrefix_devtm (s : State) (p : Pfx) : (s.notePrefix p).devtm = s.devtm := rfl
@[simp] theorem State.notePrefix_hostLines (s : State) (p : Pfx) : (s.notePrefix p).hostLines = s.hostLines := rfl
@[simp] theorem State.notePrefix_eng (s : State) (p : Pfx) : (s.notePrefix p).eng = s.eng := rfl
@[simp] theorem State.notePrefix_port (s : State) (p : Pfx) : (s.notePrefix p).port = s.port := rfl
@[simp] theorem State.notePrefix_draws (s : State) (p : Pfx) : (s.notePrefix p).draws = s.draws := rfl
@[simp] theorem State.notePrefix_busDraws (s : State) (p : Pfx) : (s.notePrefix p).busDraws = s.busDraws := rfl
@[simp] theorem State.notePrefix_inputs (s : State) (p : Pfx) : (s.notePrefix p).inputs = s.inputs := rfl
@[simp] theorem State.notePrefix_driver (s : State) (p : Pfx) : (s.notePrefix p).driver = s.driver := rfl
@[simp] theorem State.notePrefix_session (s : State) (p : Pfx) : (s.notePrefix p).session = s.session := rfl
@[simp] theorem State.notePrefix_cfg (s : State) (p : Pfx) : (s.notePrefix p).cfg = s.cfg := rfl
@[simp] theorem State.notePrefix_reg16 (s : State) (p : Pfx) (q : Reg16) : (s.notePrefix p).reg16 q = s.reg16 q := rfl
@[simp] theorem State.notePrefix_reg8 (s : State) (p : Pfx) (q : Reg8) : (s.notePrefix p).reg8 q = s.reg8 q := rfl
@[simp] theorem State.notePrefix_seg (s : State) (p : Pfx) (q : SReg) : (s.notePrefix p).seg q = s.seg q := rfl
@[simp] theorem State.notePrefix_flag (s : State) (p : Pfx) (g : Flag) : (s.notePrefix p).flag g = s.flag g := rfl
@[simp] theorem State.notePrefix_flagsWord (s : State) (p : Pfx) : (s.notePrefix p).flagsWord = s.flagsWord := rfl
@[simp] theorem State.notePrefix_eaOffset (s : State) (p : Pfx) (ea : Ea) : (s.notePrefix p).eaOffset ea = s.eaOffset ea := rfl
@[simp] theorem State.notePrefix_byteAt (s : State) (p : Pfx) (g o : Word) : (s.notePrefix p).byteAt g o = s.byteAt g o := rfl
@[simp] theorem State.notePrefix_wordAt (s : State) (p : Pfx) (g o : Word) : (s.notePrefix p).wordAt g o = s.wordAt g o := rfl
@[simp] theorem State.notePrefix_plainAt (s : State) (p : Pfx) (g o : Word) : (s.notePrefix p).plainAt g o = s.plainAt g o := rfl
@[simp] theorem State.notePrefix_plainWordAt (s : State) (p : Pfx) (g o : Word) : (s.notePrefix p).plainWordAt g o = s.plainWordAt g o := rfl

/-! ## The driver's status -/

@[simp] theorem State.setStatus_regs (s : State) (st : Status) : (s.setStatus st).regs = s.regs := rfl
@[simp] theorem State.setStatus_segs (s : State) (st : Status) : (s.setStatus st).segs = s.segs := rfl
@[simp] theorem State.setStatus_ip (s : State) (st : Status) : (s.setStatus st).ip = s.ip := rfl
@[simp] theorem State.setStatus_flags (s : State) (st : Status) : (s.setStatus st).flags = s.flags := rfl
@[simp] theorem State.setStatus_pfx (s : State) (st : Status) : (s.setStatus st).pfx = s.pfx := rfl
@[simp] theorem State.setStatus_intr (s : State) (st : Status) : (s.setStatus st).intr = s.intr := rfl
@[simp] theorem State.setStatus_waiting (s : State) (st : Status) : (s.setStatus st).waiting = s.waiting := rfl
@[simp] theorem State.setStatus_entered (s : State) (st : Status) : (s.setStatus st).entered = s.entered := rfl
@[simp] theorem State.setStatus_entry (s : State) (st : Status) : (s.setStatus st).entry = s.entry := rfl
@[simp] theorem State.setStatus_mem (s : State) (st : Status) : (s.setStatus st).mem = s.mem := rfl
@[simp] theorem State.setStatus_events (s : State) (st : Status) : (s.setStatus st).events = s.events := rfl
@[simp] theorem State.setStatus_stale (s : State) (st : Status) : (s.setStatus st).stale = s.stale := rfl
@[simp] theorem State.setStatus_fetchRace (s : State) (st : Status) : (s.setStatus st).fetchRace = s.fetchRace := rfl
@[simp] theorem State.setStatus_biu (s : State) (st : Status) : (s.setStatus st).biu = s.biu := rfl
@[simp] theorem State.setStatus_bus (s : State) (st : Status) : (s.setStatus st).bus = s.bus := rfl
@[simp] theorem State.setStatus_lastBus (s : State) (st : Status) : (s.setStatus st).lastBus = s.lastBus := rfl
@[simp] theorem State.setStatus_devtm (s : State) (st : Status) : (s.setStatus st).devtm = s.devtm := rfl
@[simp] theorem State.setStatus_hostLines (s : State) (st : Status) : (s.setStatus st).hostLines = s.hostLines := rfl
@[simp] theorem State.setStatus_eng (s : State) (st : Status) : (s.setStatus st).eng = s.eng := rfl
@[simp] theorem State.setStatus_port (s : State) (st : Status) : (s.setStatus st).port = s.port := rfl
@[simp] theorem State.setStatus_draws (s : State) (st : Status) : (s.setStatus st).draws = s.draws := rfl
@[simp] theorem State.setStatus_busDraws (s : State) (st : Status) : (s.setStatus st).busDraws = s.busDraws := rfl
@[simp] theorem State.setStatus_inputs (s : State) (st : Status) : (s.setStatus st).inputs = s.inputs := rfl
@[simp] theorem State.setStatus_session (s : State) (st : Status) : (s.setStatus st).session = s.session := rfl
@[simp] theorem State.setStatus_cfg (s : State) (st : Status) : (s.setStatus st).cfg = s.cfg := rfl
@[simp] theorem State.setStatus_reg16 (s : State) (st : Status) (q : Reg16) : (s.setStatus st).reg16 q = s.reg16 q := rfl
@[simp] theorem State.setStatus_reg8 (s : State) (st : Status) (q : Reg8) : (s.setStatus st).reg8 q = s.reg8 q := rfl
@[simp] theorem State.setStatus_seg (s : State) (st : Status) (q : SReg) : (s.setStatus st).seg q = s.seg q := rfl
@[simp] theorem State.setStatus_flag (s : State) (st : Status) (g : Flag) : (s.setStatus st).flag g = s.flag g := rfl
@[simp] theorem State.setStatus_flagsWord (s : State) (st : Status) : (s.setStatus st).flagsWord = s.flagsWord := rfl
@[simp] theorem State.setStatus_operandSeg (s : State) (st : Status) (d : SReg) : (s.setStatus st).operandSeg d = s.operandSeg d := rfl
@[simp] theorem State.setStatus_eaOffset (s : State) (st : Status) (ea : Ea) : (s.setStatus st).eaOffset ea = s.eaOffset ea := rfl
@[simp] theorem State.setStatus_byteAt (s : State) (st : Status) (g o : Word) : (s.setStatus st).byteAt g o = s.byteAt g o := rfl
@[simp] theorem State.setStatus_wordAt (s : State) (st : Status) (g o : Word) : (s.setStatus st).wordAt g o = s.wordAt g o := rfl
@[simp] theorem State.setStatus_plainAt (s : State) (st : Status) (g o : Word) : (s.setStatus st).plainAt g o = s.plainAt g o := rfl
@[simp] theorem State.setStatus_plainWordAt (s : State) (st : Status) (g o : Word) : (s.setStatus st).plainWordAt g o = s.plainWordAt g o := rfl

end Sys2Proof.Machine
end

