-- ==== Sys2Proof/Laws/Ops.lean ====
section
/-!
SUPPORT. What each named operation over registers, flags, memory and the stack does, said once: what a register or flag reads as after a write, and, for
accesses to RAM and ROM at the instruction level, the value read and the state after.
-/

namespace Sys2Proof.Machine

/-! ## Registers (R21, R22, R24) -/

@[simp] theorem Regs.get_set (g : Regs) (r q : Reg16) (v : Word) : (g.set r v).get q = if q = r then v else g.get q := by
  cases r <;> cases q <;> rfl

@[simp] theorem Segs.get_set (g : Segs) (r q : SReg) (v : Word) : (g.set r v).get q = if q = r then v else g.get q := by
  cases r <;> cases q <;> rfl

@[simp] theorem State.reg16_setReg16 (s : State) (r q : Reg16) (v : Word) : (s.setReg16 r v).reg16 q = if q = r then v else s.reg16 q :=
  Regs.get_set _ _ _ _

@[simp] theorem State.seg_setSeg (s : State) (r q : SReg) (v : Word) : (s.setSeg r v).seg q = if q = r then v else s.seg q :=
  Segs.get_set _ _ _ _

@[simp] theorem lowByte_append (h l : Byte) : lowByte (h ++ l) = l := by
  apply BitVec.eq_of_getLsbD_eq
  intro i hi
  have := BitVec.getLsbD_append (x := h) (y := l) (i := i)
  simp only [lowByte, BitVec.getLsbD_extractLsb', hi, decide_true, Bool.true_and, Nat.zero_add]
  exact this.trans (by simp [hi])

@[simp] theorem highByte_append (h l : Byte) : highByte (h ++ l) = h := by
  apply BitVec.eq_of_getLsbD_eq
  intro i hi
  have := BitVec.getLsbD_append (x := h) (y := l) (i := 8 + i)
  simp only [highByte, BitVec.getLsbD_extractLsb', hi, decide_true, Bool.true_and]
  exact this.trans (by simp)

@[simp] theorem highByte_append_lowByte (w : Word) : highByte w ++ lowByte w = w := by
  ext i hi
  simp only [lowByte, highByte, BitVec.getElem_append, BitVec.getElem_extractLsb']
  split
  · simp [BitVec.getLsbD_eq_getElem hi]
  · rw [← BitVec.getLsbD_eq_getElem hi]; congr 1; omega

theorem State.reg8_setReg16 (s : State) (r : Reg16) (q : Reg8) (v : Word) :
    (s.setReg16 r v).reg8 q = if q.word = r then (if q.high then highByte v else lowByte v) else s.reg8 q := by
  by_cases h : q.word = r <;> simp [State.reg8, h]

@[simp] theorem State.reg8_setReg16_other (s : State) (r : Reg16) (q : Reg8) (v : Word) (h : q.word ≠ r) : (s.setReg16 r v).reg8 q = s.reg8 q := by
  simp [State.reg8, h]

@[simp] theorem State.reg16_setReg8_other (s : State) (r : Reg8) (q : Reg16) (v : Byte) (h : q ≠ r.word) : (s.setReg8 r v).reg16 q = s.reg16 q := by
  simp [State.setReg8, h]

/-- A byte register is written alone: its other half keeps its value (R22). -/
@[simp] theorem State.reg8_setReg8 (s : State) (r q : Reg8) (v : Byte) : (s.setReg8 r v).reg8 q = if q = r then v else s.reg8 q := by
  cases r <;> cases q <;> simp [State.setReg8, State.reg8, Reg8.word, Reg8.high]

/-- A word register is the two byte registers it is made of (R22). -/
theorem State.reg16_eq_append (s : State) : s.reg16 .ax = s.reg8 .ah ++ s.reg8 .al := by
  simp [State.reg8, Reg8.word, Reg8.high]

/-! ## Flags (R26, R27) -/

theorem Flag.bit_lt (f : Flag) : f.bit < 16 := by cases f <;> decide

theorem Flag.bit_inj {f g : Flag} : f.bit = g.bit ↔ f = g := by cases f <;> cases g <;> simp [Flag.bit]

theorem getLsbD_putBit (w : Word) {n : Nat} (hn : n < 16) (b : Bool) (k : Nat) :
    (putBit w n b).getLsbD k = if k = n then b else w.getLsbD k := by
  by_cases hk : k < 16
  · rcases b with _ | _
    · by_cases e : k = n
      · subst e; simp [putBit, hk]
      · by_cases l : k < n
        · simp [putBit, hk, e, l]
        · have : ¬(k - n = 0) := by omega
          simp [putBit, hk, e, l, this]
    · by_cases e : k = n
      · subst e; simp [putBit, hk]
      · by_cases l : k < n
        · simp [putBit, hk, e, l]
        · have : ¬(k - n = 0) := by omega
          simp [putBit, hk, e, l, this]
  · have e : k ≠ n := by omega
    simp [e, BitVec.getLsbD_of_ge _ _ (show 16 ≤ k by omega)]

@[simp] theorem State.flag_setFlag (s : State) (f g : Flag) (b : Bool) : (s.setFlag f b).flag g = if g = f then b else s.flag g := by
  show (putBit s.flags f.bit b).getLsbD g.bit = _
  rw [getLsbD_putBit _ f.bit_lt]
  simp [Flag.bit_inj, State.flag]

/-- Writing a flag leaves every other bit of FLAGS alone. -/
theorem State.setFlag_bit (s : State) (f : Flag) (b : Bool) {n : Nat} (h : f.bit ≠ n) : (s.setFlag f b).flags.getLsbD n = s.flags.getLsbD n := by
  show (putBit s.flags f.bit b).getLsbD n = _
  rw [getLsbD_putBit _ f.bit_lt, if_neg (Ne.symm h)]

theorem getLsbD_flagsImage (w : Word) (n : Nat) :
    (flagsImage w).getLsbD n = ((w.getLsbD n && (0x0FD5#16).getLsbD n) || (0xF002#16).getLsbD n) := by
  simp [flagsImage]

@[simp] theorem flagsImage_idem (w : Word) : flagsImage (flagsImage w) = flagsImage w := by
  have key : ∀ w : Word, ((w &&& 0x0FD5#16) ||| 0xF002#16) = ((w &&& 0x0FD5#16) ||| 0xF002#16) := fun _ => rfl
  apply BitVec.eq_of_getLsbD_eq
  intro i hi
  rw [getLsbD_flagsImage, getLsbD_flagsImage]
  have : ∀ j : Fin 16, ((0xF002#16).getLsbD j && (0x0FD5#16).getLsbD j) = false := by decide
  have := this ⟨i, hi⟩
  simp only at this
  cases h1 : (0xF002#16).getLsbD i <;> cases h2 : (0x0FD5#16).getLsbD i <;> simp_all

/-- A live flag of the hardwired view is the flag (R27). -/
theorem flagsImage_flag (w : Word) (f : Flag) : (flagsImage w).getLsbD f.bit = w.getLsbD f.bit := by
  rw [getLsbD_flagsImage]
  cases f <;> simp [Flag.bit]

/-- The reserved bits of the hardwired view (R27). -/
theorem flagsImage_reserved (w : Word) {n : Nat} (h : ∀ f : Flag, f.bit ≠ n) : (flagsImage w).getLsbD n = (0xF002#16).getLsbD n := by
  rw [getLsbD_flagsImage]
  by_cases hn : n < 16
  · have c : ∀ j : Fin 16, (∀ f : Flag, f.bit ≠ j.val) → (0x0FD5#16).getLsbD j = false := by
      intro j hj
      have a0 := hj .cf; have a1 := hj .pf; have a2 := hj .af; have a3 := hj .zf; have a4 := hj .sf
      have a5 := hj .tf; have a6 := hj .intf; have a7 := hj .df; have a8 := hj .ovf
      simp only [Flag.bit] at a0 a1 a2 a3 a4 a5 a6 a7 a8
      have n : j.val ≠ 0 ∧ j.val ≠ 2 ∧ j.val ≠ 4 ∧ j.val ≠ 6 ∧ j.val ≠ 7 ∧ j.val ≠ 8 ∧ j.val ≠ 9 ∧ j.val ≠ 10 ∧ j.val ≠ 11 := by omega
      clear hj a0 a1 a2 a3 a4 a5 a6 a7 a8
      revert j; decide
    have := c ⟨n, hn⟩ h
    simp only at this
    rw [this]; simp
  · rw [BitVec.getLsbD_of_ge _ _ (by omega)]; simp

@[simp] theorem State.flag_setFlags (s : State) (v : Word) (f : Flag) : (s.setFlags v).flag f = v.getLsbD f.bit := flagsImage_flag v f

/-- The hardwired bits stay hardwired when a live flag is written. -/
theorem flagsImage_putBit {w : Word} (h : flagsImage w = w) (f : Flag) (b : Bool) : flagsImage (putBit w f.bit b) = putBit w f.bit b := by
  apply BitVec.eq_of_getLsbD_eq
  intro i hi
  by_cases e : ∃ g : Flag, g.bit = i
  · obtain ⟨g, rfl⟩ := e
    exact flagsImage_flag _ g
  · have hr : ∀ g : Flag, g.bit ≠ i := fun g hg => e ⟨g, hg⟩
    rw [flagsImage_reserved _ hr, getLsbD_putBit _ f.bit_lt, if_neg (Ne.symm (hr f))]
    conv_rhs => rw [← h]
    exact (flagsImage_reserved _ hr).symm

@[simp] theorem State.setFlags_image (s : State) (v : Word) : flagsImage (s.setFlags v).flags = (s.setFlags v).flags := flagsImage_idem v

theorem State.setFlag_image {s : State} (h : flagsImage s.flags = s.flags) (f : Flag) (b : Bool) :
    flagsImage (s.setFlag f b).flags = (s.setFlag f b).flags := flagsImage_putBit h f b

/-! ## Addresses (R72, R74) -/

theorem phys_toNat (g o : Word) : (phys g o).toNat = (g.toNat * 16 + o.toNat) % 0x100000 := by
  simp [phys, BitVec.toNat_add, BitVec.toNat_mul]

theorem addrOf_lt (g o : Word) : addrOf g o < 0x100000 := (phys g o).isLt

/-- The two bytes of a word never share an address, not even where the offset wraps (R74). -/
theorem addrOf_succ_ne (g o : Word) : addrOf g (o + 1) ≠ addrOf g o := by
  have h : (o + 1).toNat = (o.toNat + 1) % 65536 := by simp [BitVec.toNat_add]
  simp only [addrOf, phys_toNat, h]
  have := g.isLt; have := o.isLt
  omega

/-! ## Accesses to RAM and ROM at the instruction level (R13, R82, R84) -/

theorem State.noteOdd_direct {s : State} (h : s.Direct) (o : Word) : s.noteOdd o = s := by
  have h' : s.port.replay = false := h
  simp [State.noteOdd, h']

theorem State.noteBranch_direct {s : State} (h : s.Direct) (b : Bool) : s.noteBranch b = s := by
  have h' : s.port.replay = false := h
  simp [State.noteBranch, h']

/-- A byte read of RAM or ROM gives the byte held and changes nothing. -/
theorem State.rdB_plain {s : State} (h : s.Direct) {g o : Word} (p : s.plainAt g o) : s.rdB g o = (s.byteAt g o, s) := by
  have h' : s.port.replay = false := h
  unfold State.plainAt at p
  unfold State.rdB State.busRead State.directRead State.readValue State.record Params.isEvent
  cases k : s.cfg.memKind (phys g o) <;> simp_all [plainKind] <;> rfl

/-- A word read of RAM or ROM gives the word held, the high byte at the next offset of the segment, and changes nothing. -/
theorem State.rdW_plain {s : State} (h : s.Direct) {g o : Word} (p : s.plainWordAt g o) : s.rdW g o = (s.wordAt g o, s) := by
  unfold State.rdW
  rw [State.noteOdd_direct h, State.rdB_plain h p.1]
  simp only
  rw [State.rdB_plain h p.2]
  rfl

/-- The state after a byte is written to RAM or ROM: ROM ignores it (R82). -/
def State.poke (s : State) (g o : Word) (v : Byte) : State :=
  { s with mem := if s.cfg.memKind (phys g o) = .ram then Memory.write s.mem (addrOf g o) v else s.mem, stale := (s.noteStale (phys g o)).stale }

/-- The state after a word is written to RAM or ROM, the low byte first (R13). -/
def State.pokeWord (s : State) (g o v : Word) : State := (s.poke g o (lowByte v)).poke g (o + 1) (highByte v)

@[simp] theorem State.poke_regs (s : State) (g o : Word) (v : Byte) : (s.poke g o v).regs = s.regs := rfl
@[simp] theorem State.poke_segs (s : State) (g o : Word) (v : Byte) : (s.poke g o v).segs = s.segs := rfl
@[simp] theorem State.poke_ip (s : State) (g o : Word) (v : Byte) : (s.poke g o v).ip = s.ip := rfl
@[simp] theorem State.poke_flags (s : State) (g o : Word) (v : Byte) : (s.poke g o v).flags = s.flags := rfl
@[simp] theorem State.poke_pfx (s : State) (g o : Word) (v : Byte) : (s.poke g o v).pfx = s.pfx := rfl
@[simp] theorem State.poke_intr (s : State) (g o : Word) (v : Byte) : (s.poke g o v).intr = s.intr := rfl
@[simp] theorem State.poke_waiting (s : State) (g o : Word) (v : Byte) : (s.poke g o v).waiting = s.waiting := rfl
@[simp] theorem State.poke_entered (s : State) (g o : Word) (v : Byte) : (s.poke g o v).entered = s.entered := rfl
@[simp] theorem State.poke_entry (s : State) (g o : Word) (v : Byte) : (s.poke g o v).entry = s.entry := rfl
@[simp] theorem State.poke_events (s : State) (g o : Word) (v : Byte) : (s.poke g o v).events = s.events := rfl
@[simp] theorem State.poke_fetchRace (s : State) (g o : Word) (v : Byte) : (s.poke g o v).fetchRace = s.fetchRace := rfl
@[simp] theorem State.poke_biu (s : State) (g o : Word) (v : Byte) : (s.poke g o v).biu = s.biu := rfl
@[simp] theorem State.poke_bus (s : State) (g o : Word) (v : Byte) : (s.poke g o v).bus = s.bus := rfl
@[simp] theorem State.poke_lastBus (s : State) (g o : Word) (v : Byte) : (s.poke g o v).lastBus = s.lastBus := rfl
@[simp] theorem State.poke_devtm (s : State) (g o : Word) (v : Byte) : (s.poke g o v).devtm = s.devtm := rfl
@[simp] theorem State.poke_hostLines (s : State) (g o : Word) (v : Byte) : (s.poke g o v).hostLines = s.hostLines := rfl
@[simp] theorem State.poke_eng (s : State) (g o : Word) (v : Byte) : (s.poke g o v).eng = s.eng := rfl
@[simp] theorem State.poke_port (s : State) (g o : Word) (v : Byte) : (s.poke g o v).port = s.port := rfl
@[simp] theorem State.poke_draws (s : State) (g o : Word) (v : Byte) : (s.poke g o v).draws = s.draws := rfl
@[simp] theorem State.poke_busDraws (s : State) (g o : Word) (v : Byte) : (s.poke g o v).busDraws = s.busDraws := rfl
@[simp] theorem State.poke_inputs (s : State) (g o : Word) (v : Byte) : (s.poke g o v).inputs = s.inputs := rfl
@[simp] theorem State.poke_driver (s : State) (g o : Word) (v : Byte) : (s.poke g o v).driver = s.driver := rfl
@[simp] theorem State.poke_session (s : State) (g o : Word) (v : Byte) : (s.poke g o v).session = s.session := rfl
@[simp] theorem State.poke_cfg (s : State) (g o : Word) (v : Byte) : (s.poke g o v).cfg = s.cfg := rfl
@[simp] theorem State.poke_reg16 (s : State) (g o : Word) (v : Byte) (q : Reg16) : (s.poke g o v).reg16 q = s.reg16 q := rfl
@[simp] theorem State.poke_reg8 (s : State) (g o : Word) (v : Byte) (q : Reg8) : (s.poke g o v).reg8 q = s.reg8 q := rfl
@[simp] theorem State.poke_seg (s : State) (g o : Word) (v : Byte) (q : SReg) : (s.poke g o v).seg q = s.seg q := rfl
@[simp] theorem State.poke_flag (s : State) (g o : Word) (v : Byte) (f : Flag) : (s.poke g o v).flag f = s.flag f := rfl
@[simp] theorem State.poke_flagsWord (s : State) (g o : Word) (v : Byte)  : (s.poke g o v).flagsWord  = s.flagsWord  := rfl
@[simp] theorem State.poke_operandSeg (s : State) (g o : Word) (v : Byte) (d : SReg) : (s.poke g o v).operandSeg d = s.operandSeg d := rfl
@[simp] theorem State.poke_eaOffset (s : State) (g o : Word) (v : Byte) (ea : Ea) : (s.poke g o v).eaOffset ea = s.eaOffset ea := rfl
@[simp] theorem State.poke_plainAt (s : State) (g o : Word) (v : Byte) (g' o' : Word) : (s.poke g o v).plainAt g' o' = s.plainAt g' o' := rfl
@[simp] theorem State.poke_plainWordAt (s : State) (g o : Word) (v : Byte) (g' o' : Word) : (s.poke g o v).plainWordAt g' o' = s.plainWordAt g' o' := rfl
@[simp] theorem State.pokeWord_regs (s : State) (g o v : Word) : (s.pokeWord g o v).regs = s.regs := rfl
@[simp] theorem State.pokeWord_segs (s : State) (g o v : Word) : (s.pokeWord g o v).segs = s.segs := rfl
@[simp] theorem State.pokeWord_ip (s : State) (g o v : Word) : (s.pokeWord g o v).ip = s.ip := rfl
@[simp] theorem State.pokeWord_flags (s : State) (g o v : Word) : (s.pokeWord g o v).flags = s.flags := rfl
@[simp] theorem State.pokeWord_pfx (s : State) (g o v : Word) : (s.pokeWord g o v).pfx = s.pfx := rfl
@[simp] theorem State.pokeWord_intr (s : State) (g o v : Word) : (s.pokeWord g o v).intr = s.intr := rfl
@[simp] theorem State.pokeWord_waiting (s : State) (g o v : Word) : (s.pokeWord g o v).waiting = s.waiting := rfl
@[simp] theorem State.pokeWord_entered (s : State) (g o v : Word) : (s.pokeWord g o v).entered = s.entered := rfl
@[simp] theorem State.pokeWord_entry (s : State) (g o v : Word) : (s.pokeWord g o v).entry = s.entry := rfl
@[simp] theorem State.pokeWord_events (s : State) (g o v : Word) : (s.pokeWord g o v).events = s.events := rfl
@[simp] theorem State.pokeWord_fetchRace (s : State) (g o v : Word) : (s.pokeWord g o v).fetchRace = s.fetchRace := rfl
@[simp] theorem State.pokeWord_biu (s : State) (g o v : Word) : (s.pokeWord g o v).biu = s.biu := rfl
@[simp] theorem State.pokeWord_bus (s : State) (g o v : Word) : (s.pokeWord g o v).bus = s.bus := rfl
@[simp] theorem State.pokeWord_lastBus (s : State) (g o v : Word) : (s.pokeWord g o v).lastBus = s.lastBus := rfl
@[simp] theorem State.pokeWord_devtm (s : State) (g o v : Word) : (s.pokeWord g o v).devtm = s.devtm := rfl
@[simp] theorem State.pokeWord_hostLines (s : State) (g o v : Word) : (s.pokeWord g o v).hostLines = s.hostLines := rfl
@[simp] theorem State.pokeWord_eng (s : State) (g o v : Word) : (s.pokeWord g o v).eng = s.eng := rfl
@[simp] theorem State.pokeWord_port (s : State) (g o v : Word) : (s.pokeWord g o v).port = s.port := rfl
@[simp] theorem State.pokeWord_draws (s : State) (g o v : Word) : (s.pokeWord g o v).draws = s.draws := rfl
@[simp] theorem State.pokeWord_busDraws (s : State) (g o v : Word) : (s.pokeWord g o v).busDraws = s.busDraws := rfl
@[simp] theorem State.pokeWord_inputs (s : State) (g o v : Word) : (s.pokeWord g o v).inputs = s.inputs := rfl
@[simp] theorem State.pokeWord_driver (s : State) (g o v : Word) : (s.pokeWord g o v).driver = s.driver := rfl
@[simp] theorem State.pokeWord_session (s : State) (g o v : Word) : (s.pokeWord g o v).session = s.session := rfl
@[simp] theorem State.pokeWord_cfg (s : State) (g o v : Word) : (s.pokeWord g o v).cfg = s.cfg := rfl
@[simp] theorem State.pokeWord_reg16 (s : State) (g o v : Word) (q : Reg16) : (s.pokeWord g o v).reg16 q = s.reg16 q := rfl
@[simp] theorem State.pokeWord_reg8 (s : State) (g o v : Word) (q : Reg8) : (s.pokeWord g o v).reg8 q = s.reg8 q := rfl
@[simp] theorem State.pokeWord_seg (s : State) (g o v : Word) (q : SReg) : (s.pokeWord g o v).seg q = s.seg q := rfl
@[simp] theorem State.pokeWord_flag (s : State) (g o v : Word) (f : Flag) : (s.pokeWord g o v).flag f = s.flag f := rfl
@[simp] theorem State.pokeWord_flagsWord (s : State) (g o v : Word)  : (s.pokeWord g o v).flagsWord  = s.flagsWord  := rfl
@[simp] theorem State.pokeWord_operandSeg (s : State) (g o v : Word) (d : SReg) : (s.pokeWord g o v).operandSeg d = s.operandSeg d := rfl
@[simp] theorem State.pokeWord_eaOffset (s : State) (g o v : Word) (ea : Ea) : (s.pokeWord g o v).eaOffset ea = s.eaOffset ea := rfl
@[simp] theorem State.pokeWord_plainAt (s : State) (g o v : Word) (g' o' : Word) : (s.pokeWord g o v).plainAt g' o' = s.plainAt g' o' := rfl
@[simp] theorem State.pokeWord_plainWordAt (s : State) (g o v : Word) (g' o' : Word) : (s.pokeWord g o v).plainWordAt g' o' = s.plainWordAt g' o' := rfl

theorem State.wrB_plain {s : State} (h : s.Direct) {g o : Word} (p : s.plainAt g o) (v : Byte) : s.wrB g o v = s.poke g o v := by
  have h' : s.port.replay = false := h
  unfold State.plainAt at p
  unfold State.wrB State.busWrite State.directWrite State.storeValue State.record Params.isEvent State.poke
  cases k : s.cfg.memKind (phys g o) <;> simp_all [plainKind] <;> rfl

theorem State.wrW_plain {s : State} (h : s.Direct) {g o : Word} (p : s.plainWordAt g o) (v : Word) : s.wrW g o v = s.pokeWord g o v := by
  unfold State.wrW
  rw [State.noteOdd_direct h, State.wrB_plain h p.1, State.wrB_plain (s := s.poke g o (lowByte v)) h p.2]
  rfl

theorem State.poke_wf {s : State} (w : Memory.wf s.mem = true) (g o : Word) (v : Byte) : Memory.wf (s.poke g o v).mem = true := by
  unfold State.poke
  split
  · exact Memory.write_keeps_wf w _ v
  · exact w

theorem State.pokeWord_wf {s : State} (w : Memory.wf s.mem = true) (g o : Word) (v : Word) : Memory.wf (s.pokeWord g o v).mem = true :=
  State.poke_wf (State.poke_wf w _ _ _) _ _ _

theorem State.read_poke_other (s : State) (g o : Word) (v : Byte) {a : Nat} (h : a ≠ addrOf g o) :
    Memory.read (s.poke g o v).mem a = Memory.read s.mem a := by
  unfold State.poke
  split
  · exact Memory.read_write_other (Ne.symm h) _ _
  · rfl

theorem State.read_pokeWord_other (s : State) (g o v : Word) {a : Nat} (h : a ∉ wordAddrs g o) :
    Memory.read (s.pokeWord g o v).mem a = Memory.read s.mem a := by
  simp only [wordAddrs, List.mem_cons, List.not_mem_nil, or_false, not_or] at h
  rw [State.pokeWord, State.read_poke_other _ _ _ _ h.2, State.read_poke_other _ _ _ _ h.1]

theorem State.byteAt_poke {s : State} (w : Memory.wf s.mem = true) (g o : Word) (v : Byte) : (s.poke g o v).byteAt g o = s.storedByte g o v := by
  unfold State.poke State.storedByte State.byteAt
  cases k : s.cfg.memKind (phys g o) <;> simp [Memory.read_write_same w]

theorem State.byteAt_poke_other (s : State) {g o g' o' : Word} (v : Byte) (h : addrOf g' o' ≠ addrOf g o) :
    (s.poke g o v).byteAt g' o' = s.byteAt g' o' := State.read_poke_other s g o v h

@[simp] theorem State.storedByte_poke_other (s : State) {g o g' o' : Word} (v v' : Byte) (h : addrOf g' o' ≠ addrOf g o) :
    (s.poke g o v).storedByte g' o' v' = s.storedByte g' o' v' := by
  unfold State.storedByte
  rw [State.byteAt_poke_other s v h]
  rfl

theorem State.wordAt_pokeWord {s : State} (w : Memory.wf s.mem = true) (g o v : Word) : (s.pokeWord g o v).wordAt g o = s.storedWord g o v := by
  have e := addrOf_succ_ne g o
  unfold State.wordAt State.pokeWord State.storedWord
  rw [State.byteAt_poke (State.poke_wf w g o _), State.byteAt_poke_other _ _ (Ne.symm e), State.byteAt_poke w,
    State.storedByte_poke_other _ _ _ e]

/-! ## The stack (R13) -/

/-- `Push(v)` onto a stack in RAM or ROM. -/
theorem State.push_plain {s : State} (h : s.Direct) (p : s.plainWordAt (s.seg .ss) (s.reg16 .sp - 2)) (v : Word) :
    s.push v = (s.setReg16 .sp (s.reg16 .sp - 2)).pokeWord (s.seg .ss) (s.reg16 .sp - 2) v :=
  State.wrW_plain (s := s.setReg16 .sp (s.reg16 .sp - 2)) h p v

/-- `Pop()` from a stack in RAM or ROM. -/
theorem State.pop_plain {s : State} (h : s.Direct) (p : s.plainWordAt (s.seg .ss) (s.reg16 .sp)) :
    s.pop = (s.wordAt (s.seg .ss) (s.reg16 .sp), s.setReg16 .sp (s.reg16 .sp + 2)) := by
  unfold State.pop
  rw [State.rdW_plain h p]

end Sys2Proof.Machine
end

