-- ==== Sys2Proof/Laws/Frame.lean ====
section
/-!
SUPPORT. Frames: what each primitive update leaves alone, and how frames compose. A meaning's frame is the composition of the frames of the updates it is
made of, widened to what the claim names.
-/

namespace Sys2Proof.Machine

/-- What either of two updates may change. -/
def Dests.append (a b : Dests) : Dests :=
  ⟨a.words ++ b.words, a.bytes ++ b.bytes, a.segs ++ b.segs, a.flags ++ b.flags, a.mem ++ b.mem⟩

/-- `d` names no more than `e`: a byte register may be named by its word register. -/
structure Dests.Le (d e : Dests) : Prop where
  words : ∀ r ∈ d.words, r ∈ e.words
  bytes : ∀ b ∈ d.bytes, b ∈ e.bytes ∨ b.word ∈ e.words
  segs : ∀ r ∈ d.segs, r ∈ e.segs
  flags : ∀ f ∈ d.flags, f ∈ e.flags
  mem : ∀ a ∈ d.mem, a ∈ e.mem

theorem RegFrame.refl (s : State) (d : Dests) : RegFrame s s d :=
  ⟨fun _ _ _ => rfl, fun _ _ _ => rfl, fun _ _ => rfl, fun _ _ => rfl, fun _ _ => rfl, fun _ _ => rfl⟩

theorem RegFrame.trans {s t u : State} {d e : Dests} (h : RegFrame s t d) (k : RegFrame t u e) : RegFrame s u (d.append e) where
  words r n b := by
    simp only [Dests.append, List.mem_append, not_or] at n b
    rw [k.words r n.2 fun x hx => b x (Or.inr hx), h.words r n.1 fun x hx => b x (Or.inl hx)]
  bytes b n w := by
    simp only [Dests.append, List.mem_append, not_or] at n w
    rw [k.bytes b n.2 w.2, h.bytes b n.1 w.1]
  segs r n := by
    simp only [Dests.append, List.mem_append, not_or] at n
    rw [k.segs r n.2, h.segs r n.1]
  flags f n := by
    simp only [Dests.append, List.mem_append, not_or] at n
    rw [k.flags f n.2, h.flags f n.1]
  reserved n hn := by rw [k.reserved n hn, h.reserved n hn]
  mem a n := by
    simp only [Dests.append, List.mem_append, not_or] at n
    rw [k.mem a n.2, h.mem a n.1]

theorem RegFrame.mono {s t : State} {d e : Dests} (h : RegFrame s t d) (l : d.Le e) : RegFrame s t e where
  words r n b := h.words r (fun m => n (l.words r m)) fun x hx e => by
    rcases l.bytes x hx with m | m
    · exact b x m e
    · exact n (e ▸ m)
  bytes b n w := h.bytes b (fun m => (l.bytes b m).elim n w) fun m => w (l.words _ m)
  segs r n := h.segs r fun m => n (l.segs r m)
  flags f n := h.flags f fun m => n (l.flags f m)
  reserved := h.reserved
  mem a n := h.mem a fun m => n (l.mem a m)

/-- What fits twice fits once. -/
theorem RegFrame.andThen {s t u : State} {d : Dests} (h : RegFrame s t d) (k : RegFrame t u d) : RegFrame s u d :=
  (h.trans k).mono
    ⟨fun r m => by simpa [Dests.append] using m, fun b m => Or.inl (by simpa [Dests.append] using m), fun r m => by simpa [Dests.append] using m,
      fun f m => by simpa [Dests.append] using m, fun a m => by simpa [Dests.append] using m⟩

/-! ## Primitive updates -/

theorem RegFrame.setReg16 (s : State) (r : Reg16) (v : Word) {d : Dests} (h : r ∈ d.words) : RegFrame s (s.setReg16 r v) d :=
  ⟨fun q n _ => by rw [State.reg16_setReg16]; rw [if_neg]; rintro rfl; exact n h,
    fun b _ w => State.reg8_setReg16_other s r b v (fun e => w (e ▸ h)), fun _ _ => rfl, fun _ _ => rfl, fun _ _ => rfl, fun _ _ => rfl⟩

theorem RegFrame.setReg8 (s : State) (r : Reg8) (v : Byte) {d : Dests} (h : r ∈ d.bytes ∨ r.word ∈ d.words) : RegFrame s (s.setReg8 r v) d :=
  ⟨fun q n b => State.reg16_setReg8_other s r q v fun e => h.elim (fun m => b r m e.symm) fun m => n (e ▸ m),
    fun b n w => by
      rw [State.reg8_setReg8, if_neg]
      intro e
      exact h.elim (fun m => n (e ▸ m)) fun m => w (e ▸ m),
    fun _ _ => rfl, fun _ _ => rfl, fun _ _ => rfl, fun _ _ => rfl⟩

theorem RegFrame.setSeg (s : State) (r : SReg) (v : Word) {d : Dests} (h : r ∈ d.segs) : RegFrame s (s.setSeg r v) d :=
  ⟨fun _ _ _ => rfl, fun _ _ _ => rfl, fun q n => by rw [State.seg_setSeg]; rw [if_neg]; rintro rfl; exact n h, fun _ _ => rfl, fun _ _ => rfl, fun _ _ => rfl⟩

theorem RegFrame.setFlag (s : State) (f : Flag) (b : Bool) {d : Dests} (h : f ∈ d.flags) : RegFrame s (s.setFlag f b) d :=
  ⟨fun _ _ _ => rfl, fun _ _ _ => rfl, fun _ _ => rfl, fun g n => by rw [State.flag_setFlag]; rw [if_neg]; rintro rfl; exact n h,
    fun _ hn => State.setFlag_bit s f b (hn f), fun _ _ => rfl⟩

theorem RegFrame.poke (s : State) (g o : Word) (v : Byte) {d : Dests} (h : addrOf g o ∈ d.mem) : RegFrame s (s.poke g o v) d :=
  ⟨fun _ _ _ => rfl, fun _ _ _ => rfl, fun _ _ => rfl, fun _ _ => rfl, fun _ _ => rfl,
    fun _ n => State.read_poke_other s g o v fun e => n (e ▸ h)⟩

theorem RegFrame.pokeWord (s : State) (g o v : Word) {d : Dests} (h : ∀ a ∈ wordAddrs g o, a ∈ d.mem) : RegFrame s (s.pokeWord g o v) d :=
  (RegFrame.poke s g o _ (h _ (by simp [wordAddrs]))).andThen (RegFrame.poke _ g (o + 1) _ (h _ (by simp [wordAddrs])))

/-- An update of fields that no register, flag or memory claim reads. -/
theorem RegFrame.ofEq {s t : State} (d : Dests) (r : t.regs = s.regs) (g : t.segs = s.segs) (f : t.flags = s.flags) (m : t.mem = s.mem) :
    RegFrame s t d :=
  ⟨fun q _ _ => by simp [State.reg16, r], fun b _ _ => by simp [State.reg8, State.reg16, r], fun q _ => by simp [State.seg, g],
    fun q _ => by simp [State.flag, f], fun _ _ => by rw [f], fun _ _ => by rw [m]⟩

/-! ## Frames of instructions that fall through -/

theorem Frame.refl (s : State) (d : Dests) : Frame s s d := ⟨RegFrame.refl s d, rfl, rfl⟩

theorem Frame.andThen {s t u : State} {d : Dests} (h : Frame s t d) (k : Frame t u d) : Frame s u d :=
  ⟨h.regs.andThen k.regs, k.ip.trans h.ip, k.others.trans h.others⟩

theorem Frame.mono {s t : State} {d e : Dests} (h : Frame s t d) (l : d.Le e) : Frame s t e := ⟨h.regs.mono l, h.ip, h.others⟩

theorem Frame.setReg16 (s : State) (r : Reg16) (v : Word) {d : Dests} (h : r ∈ d.words) : Frame s (s.setReg16 r v) d :=
  ⟨RegFrame.setReg16 s r v h, rfl, rfl⟩

theorem Frame.setReg8 (s : State) (r : Reg8) (v : Byte) {d : Dests} (h : r ∈ d.bytes ∨ r.word ∈ d.words) : Frame s (s.setReg8 r v) d :=
  ⟨RegFrame.setReg8 s r v h, rfl, rfl⟩

theorem Frame.setSeg (s : State) (r : SReg) (v : Word) {d : Dests} (h : r ∈ d.segs) : Frame s (s.setSeg r v) d :=
  ⟨RegFrame.setSeg s r v h, rfl, rfl⟩

theorem Frame.setFlag (s : State) (f : Flag) (b : Bool) {d : Dests} (h : f ∈ d.flags) : Frame s (s.setFlag f b) d :=
  ⟨RegFrame.setFlag s f b h, rfl, rfl⟩

theorem Frame.poke (s : State) (g o : Word) (v : Byte) {d : Dests} (h : addrOf g o ∈ d.mem) : Frame s (s.poke g o v) d :=
  ⟨RegFrame.poke s g o v h, rfl, rfl⟩

theorem Frame.pokeWord (s : State) (g o v : Word) {d : Dests} (h : ∀ a ∈ wordAddrs g o, a ∈ d.mem) : Frame s (s.pokeWord g o v) d :=
  ⟨RegFrame.pokeWord s g o v h, rfl, rfl⟩

theorem Frame.drawBit (s : State) (d : Dests) : Frame s s.drawBit.2 d := ⟨RegFrame.ofEq d rfl rfl rfl rfl, rfl, rfl⟩

theorem Frame.drawWord (s : State) (d : Dests) : Frame s s.drawWord.2 d := ⟨RegFrame.ofEq d rfl rfl rfl rfl, rfl, rfl⟩

end Sys2Proof.Machine
end

