-- ==== Sys2Proof/Laws/Flags.lean ====
section
/-!
SUPPORT. The flag computations of Flags.lean meet the descriptions of R28-R33, at both widths; each names the flags it may change.
-/

namespace Sys2Proof.Machine

/-! ## Parity, and the bit above the low digit -/

theorem parity8_eq (b : Byte) : parity8 b = evenParity b := by revert b; decide +kernel

theorem getLsbD_four {w : Nat} (x : BitVec w) : x.getLsbD 4 = decide (x.toNat / 16 % 2 = 1) := by
  rw [BitVec.getLsbD, Nat.testBit_eq_decide_div_mod_eq]

theorem xor_three_eq (p q r : Prop) [Decidable p] [Decidable q] [Decidable r] (x : Bool) :
    ((decide p ^^ decide q ^^ decide r) = x) ↔ ((p ↔ (q ↔ r)) ↔ x = true) := by
  by_cases p <;> by_cases q <;> by_cases r <;> cases x <;> simp_all

theorem Bool.toNat_le_one (c : Bool) : c.toNat ≤ 1 := by cases c <;> simp

/-! ## Sums and differences (R250, R251) -/

theorem addResult_eq {w : Nat} (a b : BitVec w) (c : Bool) : addResult a b c = a + b + carryIn w c := by
  apply BitVec.eq_of_toNat_eq
  cases c <;> simp [addResult, carryIn, BitVec.toNat_add]

theorem ofInt_sub {w : Nat} (x y : Int) : BitVec.ofInt w (x - y) = BitVec.ofInt w x - BitVec.ofInt w y := by
  apply BitVec.eq_of_toInt_eq
  simp [BitVec.toInt_sub, BitVec.toInt_ofInt]

theorem subResult_eq {w : Nat} (a b : BitVec w) (c : Bool) : subResult a b c = a - b - carryIn w c := by
  have h : ∀ x : BitVec w, BitVec.ofInt w x.toNat = x := fun x => by rw [BitVec.ofInt_natCast, BitVec.ofNat_toNat, BitVec.setWidth_eq]
  have k : BitVec.ofInt w (c.toNat : Int) = carryIn w c := by cases c <;> simp [carryIn]
  rw [subResult, ofInt_sub, ofInt_sub, h, h, k]

theorem subResult_toNat8 (a b : BitVec 8) (c : Bool) : (subResult a b c).toNat = (a.toNat + 512 - b.toNat - c.toNat) % 256 := by
  have ha := a.isLt; have hb := b.isLt; have hc := Bool.toNat_le_one c
  rw [subResult, BitVec.toNat_ofInt]; omega

/-- AF of a sum is the carry out of bit 3 (R30). -/
theorem addResult_af8 (a b : BitVec 8) (c : Bool) :
    (a ^^^ b ^^^ addResult a b c).getLsbD 4 = decide (16 ≤ a.toNat % 16 + b.toNat % 16 + c.toNat) := by
  have hc := Bool.toNat_le_one c
  rw [BitVec.getLsbD_xor, BitVec.getLsbD_xor, getLsbD_four, getLsbD_four, getLsbD_four, xor_three_eq, addResult, BitVec.toNat_ofNat, decide_eq_true_iff]
  omega

/-- AF of a difference is the borrow into bit 3 (R30). -/
theorem subResult_af8 (a b : BitVec 8) (c : Bool) :
    (a ^^^ b ^^^ subResult a b c).getLsbD 4 = decide (a.toNat % 16 < b.toNat % 16 + c.toNat) := by
  have ha := a.isLt; have hb := b.isLt; have hc := Bool.toNat_le_one c
  rw [BitVec.getLsbD_xor, BitVec.getLsbD_xor, getLsbD_four, getLsbD_four, getLsbD_four, xor_three_eq, subResult_toNat8, decide_eq_true_iff]
  omega

/-- OF of a sum: the signed sum does not fit (R33). -/
theorem addResult_of8 (a b : BitVec 8) (c : Bool) :
    ((a ^^^ addResult a b c) &&& (b ^^^ addResult a b c)).msb =
      decide (2 ^ (8 - 1) ≤ a.toInt + b.toInt + c.toNat ∨ a.toInt + b.toInt + c.toNat < -2 ^ (8 - 1)) := by
  have ha := a.isLt; have hb := b.isLt; have hc := Bool.toNat_le_one c
  rw [BitVec.msb_and, BitVec.msb_xor, BitVec.msb_xor, BitVec.msb_eq_decide, BitVec.msb_eq_decide, BitVec.msb_eq_decide, addResult, BitVec.toNat_ofNat,
    BitVec.toInt_eq_toNat_cond, BitVec.toInt_eq_toNat_cond, Bool.eq_iff_iff]
  simp only [Bool.and_eq_true, bne_iff_ne, ne_eq, decide_eq_decide, decide_eq_true_eq]
  split_ifs <;> omega

/-- OF of a difference: the signed difference does not fit (R33). -/
theorem subResult_of8 (a b : BitVec 8) (c : Bool) :
    ((a ^^^ b) &&& (a ^^^ subResult a b c)).msb =
      decide (2 ^ (8 - 1) ≤ a.toInt - b.toInt - c.toNat ∨ a.toInt - b.toInt - c.toNat < -2 ^ (8 - 1)) := by
  have ha := a.isLt; have hb := b.isLt; have hc := Bool.toNat_le_one c
  rw [BitVec.msb_and, BitVec.msb_xor, BitVec.msb_xor, BitVec.msb_eq_decide, BitVec.msb_eq_decide, BitVec.msb_eq_decide, subResult_toNat8,
    BitVec.toInt_eq_toNat_cond, BitVec.toInt_eq_toNat_cond, Bool.eq_iff_iff]
  simp only [Bool.and_eq_true, bne_iff_ne, ne_eq, decide_eq_decide, decide_eq_true_eq]
  split_ifs <;> omega

theorem subResult_toNat16 (a b : BitVec 16) (c : Bool) : (subResult a b c).toNat = (a.toNat + 131072 - b.toNat - c.toNat) % 65536 := by
  have ha := a.isLt; have hb := b.isLt; have hc := Bool.toNat_le_one c
  rw [subResult, BitVec.toNat_ofInt]; omega

/-- AF of a sum is the carry out of bit 3 (R30). -/
theorem addResult_af16 (a b : BitVec 16) (c : Bool) :
    (a ^^^ b ^^^ addResult a b c).getLsbD 4 = decide (16 ≤ a.toNat % 16 + b.toNat % 16 + c.toNat) := by
  have hc := Bool.toNat_le_one c
  rw [BitVec.getLsbD_xor, BitVec.getLsbD_xor, getLsbD_four, getLsbD_four, getLsbD_four, xor_three_eq, addResult, BitVec.toNat_ofNat, decide_eq_true_iff]
  omega

/-- AF of a difference is the borrow into bit 3 (R30). -/
theorem subResult_af16 (a b : BitVec 16) (c : Bool) :
    (a ^^^ b ^^^ subResult a b c).getLsbD 4 = decide (a.toNat % 16 < b.toNat % 16 + c.toNat) := by
  have ha := a.isLt; have hb := b.isLt; have hc := Bool.toNat_le_one c
  rw [BitVec.getLsbD_xor, BitVec.getLsbD_xor, getLsbD_four, getLsbD_four, getLsbD_four, xor_three_eq, subResult_toNat16, decide_eq_true_iff]
  omega

/-- OF of a sum: the signed sum does not fit (R33). -/
theorem addResult_of16 (a b : BitVec 16) (c : Bool) :
    ((a ^^^ addResult a b c) &&& (b ^^^ addResult a b c)).msb =
      decide (2 ^ (16 - 1) ≤ a.toInt + b.toInt + c.toNat ∨ a.toInt + b.toInt + c.toNat < -2 ^ (16 - 1)) := by
  have ha := a.isLt; have hb := b.isLt; have hc := Bool.toNat_le_one c
  rw [BitVec.msb_and, BitVec.msb_xor, BitVec.msb_xor, BitVec.msb_eq_decide, BitVec.msb_eq_decide, BitVec.msb_eq_decide, addResult, BitVec.toNat_ofNat,
    BitVec.toInt_eq_toNat_cond, BitVec.toInt_eq_toNat_cond, Bool.eq_iff_iff]
  simp only [Bool.and_eq_true, bne_iff_ne, ne_eq, decide_eq_decide, decide_eq_true_eq]
  split_ifs <;> omega

/-- OF of a difference: the signed difference does not fit (R33). -/
theorem subResult_of16 (a b : BitVec 16) (c : Bool) :
    ((a ^^^ b) &&& (a ^^^ subResult a b c)).msb =
      decide (2 ^ (16 - 1) ≤ a.toInt - b.toInt - c.toNat ∨ a.toInt - b.toInt - c.toNat < -2 ^ (16 - 1)) := by
  have ha := a.isLt; have hb := b.isLt; have hc := Bool.toNat_le_one c
  rw [BitVec.msb_and, BitVec.msb_xor, BitVec.msb_xor, BitVec.msb_eq_decide, BitVec.msb_eq_decide, BitVec.msb_eq_decide, subResult_toNat16,
    BitVec.toInt_eq_toNat_cond, BitVec.toInt_eq_toNat_cond, Bool.eq_iff_iff]
  simp only [Bool.and_eq_true, bne_iff_ne, ne_eq, decide_eq_decide, decide_eq_true_eq]
  split_ifs <;> omega

/-! ## What each helper sets and what it leaves alone -/

/-- `SZP(r, N)` sets SF, ZF and PF from the result (R249). -/
theorem State.szp_flags {w : Nat} (s : State) (r : BitVec w) : ResultFlags (s.szp r) r :=
  ⟨by simp [State.szp], by simp [State.szp, Bool.beq_eq_decide_eq], by simp [State.szp, parity8_eq]⟩

/-- `SZP` changes no other flag. -/
theorem State.szp_flag_other {w : Nat} (s : State) (r : BitVec w) {f : Flag} (h : f ≠ .sf ∧ f ≠ .zf ∧ f ≠ .pf) : (s.szp r).flag f = s.flag f := by
  simp [State.szp, h]

theorem Frame.szp {w : Nat} (s : State) (r : BitVec w) {d : Dests} (h : ∀ f ∈ [Flag.sf, .zf, .pf], f ∈ d.flags) : Frame s (s.szp r) d :=
  ((Frame.setFlag s .sf _ (h _ (by simp))).andThen (Frame.setFlag _ .zf _ (h _ (by simp)))).andThen (Frame.setFlag _ .pf _ (h _ (by simp)))

/-- A flag left undefined takes some value, and nothing but it and the count of free values changes (R38). -/
theorem State.undefFlag_eq (s : State) (f : Flag) (b : Option Bool) : ∃ v n, s.undefFlag f b = ({ s with draws := n } : State).setFlag f v := by
  unfold State.undefFlag
  split
  · exact ⟨_, s.draws, rfl⟩
  · exact ⟨_, _, rfl⟩
  · exact ⟨_, _, rfl⟩

/-- Under `silicon` a flag with a silicon value takes it (R38). -/
theorem State.undefFlag_silicon {s : State} (h : s.cfg.undefFlags = .silicon) (f : Flag) (b : Bool) : s.undefFlag f (some b) = s.setFlag f b := by
  unfold State.undefFlag; rw [h]

theorem State.undefFlag_other (s : State) {f g : Flag} (b : Option Bool) (h : g ≠ f) : (s.undefFlag f b).flag g = s.flag g := by
  obtain ⟨v, n, e⟩ := s.undefFlag_eq f b
  rw [e, State.flag_setFlag, if_neg h]; rfl

theorem Frame.undefFlag (s : State) (f : Flag) (b : Option Bool) {d : Dests} (h : f ∈ d.flags) : Frame s (s.undefFlag f b) d := by
  obtain ⟨v, n, e⟩ := s.undefFlag_eq f b
  rw [e]
  exact (show Frame s { s with draws := n } d from ⟨RegFrame.ofEq d rfl rfl rfl rfl, rfl, rfl⟩).andThen (Frame.setFlag _ f v h)

theorem Frame.undefList (s : State) (fs : List Flag) {d : Dests} (h : ∀ f ∈ fs, f ∈ d.flags) : Frame s (s.undefList fs) d := by
  induction fs generalizing s with
  | nil => exact Frame.refl s d
  | cons f rest ih =>
    exact (Frame.undefFlag s f none (h f (by simp))).andThen (ih (s.undefFlag f none) fun g m => h g (by simp [m]))

/-- Flags that are not in the list of undefined ones keep their values. -/
theorem State.undefList_other (s : State) (fs : List Flag) {g : Flag} (h : g ∉ fs) : (s.undefList fs).flag g = s.flag g := by
  have := (Frame.undefList s fs (d := { flags := fs }) fun _ m => m).regs.flags g h
  exact this

/-- `LogicFlags(r, N)` (R300). -/
theorem State.logicFlags_flags {w : Nat} (s : State) (r : BitVec w) : LogicFlags (s.logicFlags r) r where
  cf := by simp [State.logicFlags, State.undefFlag_other, State.szp_flag_other]
  ovf := by simp [State.logicFlags, State.undefFlag_other, State.szp_flag_other]
  result := by
    have k := State.szp_flags (((s.setFlag .cf false).setFlag .ovf false)) r
    exact ⟨by rw [State.logicFlags, State.undefFlag_other _ _ (by simp), k.sf], by rw [State.logicFlags, State.undefFlag_other _ _ (by simp), k.zf],
      by rw [State.logicFlags, State.undefFlag_other _ _ (by simp), k.pf]⟩

theorem Frame.logicFlags {w : Nat} (s : State) (r : BitVec w) {d : Dests} (h : ∀ f ∈ statusFlags, f ∈ d.flags) : Frame s (s.logicFlags r) d :=
  (((Frame.setFlag s .cf _ (h _ (by simp [statusFlags]))).andThen (Frame.setFlag _ .ovf _ (h _ (by simp [statusFlags])))).andThen
    (Frame.szp _ r fun f m => h f (by simp [statusFlags] at m ⊢; tauto))).andThen (Frame.undefFlag _ .af none (h _ (by simp [statusFlags])))

theorem Frame.addFlags {w : Nat} (s : State) (a b : BitVec w) (c : Bool) {d : Dests} (h : ∀ f ∈ statusFlags, f ∈ d.flags) :
    Frame s (s.addFlags a b c).2 d :=
  (((Frame.setFlag s .cf _ (h _ (by simp [statusFlags]))).andThen (Frame.setFlag _ .af _ (h _ (by simp [statusFlags])))).andThen
    (Frame.setFlag _ .ovf _ (h _ (by simp [statusFlags])))).andThen (Frame.szp _ _ fun f m => h f (by simp [statusFlags] at m ⊢; tauto))

theorem Frame.subFlags {w : Nat} (s : State) (a b : BitVec w) (c : Bool) {d : Dests} (h : ∀ f ∈ statusFlags, f ∈ d.flags) :
    Frame s (s.subFlags a b c).2 d :=
  (((Frame.setFlag s .cf _ (h _ (by simp [statusFlags]))).andThen (Frame.setFlag _ .af _ (h _ (by simp [statusFlags])))).andThen
    (Frame.setFlag _ .ovf _ (h _ (by simp [statusFlags])))).andThen (Frame.szp _ _ fun f m => h f (by simp [statusFlags] at m ⊢; tauto))

theorem State.addFlags_result {w : Nat} (s : State) (a b : BitVec w) (c : Bool) : (s.addFlags a b c).1 = a + b + carryIn w c := addResult_eq a b c

theorem State.subFlags_result {w : Nat} (s : State) (a b : BitVec w) (c : Bool) : (s.subFlags a b c).1 = a - b - carryIn w c := subResult_eq a b c

theorem State.addFlags_szp {w : Nat} (s : State) (a b : BitVec w) (c : Bool) : ResultFlags (s.addFlags a b c).2 (a + b + carryIn w c) := by
  rw [← addResult_eq]; exact State.szp_flags _ _

theorem State.subFlags_szp {w : Nat} (s : State) (a b : BitVec w) (c : Bool) : ResultFlags (s.subFlags a b c).2 (a - b - carryIn w c) := by
  rw [← subResult_eq]; exact State.szp_flags _ _

/-- `AddFlags(a, b, c, 8)` sets CF, AF and OF as R28, R30 and R33 describe them (R250). -/
theorem State.addFlags_flags8 (s : State) (a b : BitVec 8) (c : Bool) : SumFlags (s.addFlags a b c).2 a b c where
  cf := by simp [State.addFlags, State.szp_flag_other]
  af := by rw [← addResult_af8]; simp [State.addFlags, State.szp_flag_other]
  ovf := by rw [← addResult_of8]; simp [State.addFlags, State.szp_flag_other]

/-- `SubFlags(a, b, c, 8)` sets CF, AF and OF as R28, R30 and R33 describe them (R251). -/
theorem State.subFlags_flags8 (s : State) (a b : BitVec 8) (c : Bool) : DiffFlags (s.subFlags a b c).2 a b c where
  cf := by simp [State.subFlags, State.szp_flag_other]
  af := by rw [← subResult_af8]; simp [State.subFlags, State.szp_flag_other]
  ovf := by rw [← subResult_of8]; simp [State.subFlags, State.szp_flag_other]

/-- `AddFlags(a, b, c, 16)` sets CF, AF and OF as R28, R30 and R33 describe them (R250). -/
theorem State.addFlags_flags16 (s : State) (a b : BitVec 16) (c : Bool) : SumFlags (s.addFlags a b c).2 a b c where
  cf := by simp [State.addFlags, State.szp_flag_other]
  af := by rw [← addResult_af16]; simp [State.addFlags, State.szp_flag_other]
  ovf := by rw [← addResult_of16]; simp [State.addFlags, State.szp_flag_other]

/-- `SubFlags(a, b, c, 16)` sets CF, AF and OF as R28, R30 and R33 describe them (R251). -/
theorem State.subFlags_flags16 (s : State) (a b : BitVec 16) (c : Bool) : DiffFlags (s.subFlags a b c).2 a b c where
  cf := by simp [State.subFlags, State.szp_flag_other]
  af := by rw [← subResult_af16]; simp [State.subFlags, State.szp_flag_other]
  ovf := by rw [← subResult_of16]; simp [State.subFlags, State.szp_flag_other]

end Sys2Proof.Machine
end

