-- ==== Sys2Proof/Laws/Operands.lean ====
section
/-!
SUPPORT. Operands in registers, RAM and ROM: what reading and writing one does, and what the shapes of R248 come to over an operation that changes flags
only.
-/

namespace Sys2Proof.Machine

/-! ## Reading and writing E (R146, R150) -/

/-- The state after a byte operand is written. -/
def State.put8 (s : State) (l : Loc Reg8) (v : Byte) : State :=
  match l with
  | .reg r => s.setReg8 r v
  | .mem g o => s.poke g o v

/-- The state after a word operand is written. -/
def State.put16 (s : State) (l : Loc Reg16) (v : Word) : State :=
  match l with
  | .reg r => s.setReg16 r v
  | .mem g o => s.pokeWord g o v

theorem State.read8_plain {s : State} (h : s.Direct) {l : Loc Reg8} (p : s.plainLoc8 l) : s.read8 l = (s.valueAt8 l, s) := by
  cases l with
  | reg r => rfl
  | mem g o => exact State.rdB_plain h p

theorem State.read16_plain {s : State} (h : s.Direct) {l : Loc Reg16} (p : s.plainLoc16 l) : s.read16 l = (s.valueAt16 l, s) := by
  cases l with
  | reg r => rfl
  | mem g o => exact State.rdW_plain h p

theorem State.write8_plain {s : State} (h : s.Direct) {l : Loc Reg8} (p : s.plainLoc8 l) (v : Byte) : s.write8 l v = s.put8 l v := by
  cases l with
  | reg r => rfl
  | mem g o => exact State.wrB_plain h p v

theorem State.write16_plain {s : State} (h : s.Direct) {l : Loc Reg16} (p : s.plainLoc16 l) (v : Word) : s.write16 l v = s.put16 l v := by
  cases l with
  | reg r => rfl
  | mem g o => exact State.wrW_plain h p v

theorem State.valueAt8_put8 {s : State} (w : Memory.wf s.mem = true) (l : Loc Reg8) (v : Byte) : (s.put8 l v).valueAt8 l = s.stored8 l v := by
  cases l with
  | reg r => simp [State.put8, State.valueAt8, State.stored8]
  | mem g o => exact State.byteAt_poke w g o v

theorem State.valueAt16_put16 {s : State} (w : Memory.wf s.mem = true) (l : Loc Reg16) (v : Word) :
    (s.put16 l v).valueAt16 l = s.stored16 l v := by
  cases l with
  | reg r => simp [State.put16, State.valueAt16, State.stored16]
  | mem g o => exact State.wordAt_pokeWord w g o v

theorem State.put8_wf {s : State} (w : Memory.wf s.mem = true) (l : Loc Reg8) (v : Byte) : Memory.wf (s.put8 l v).mem = true := by
  cases l with
  | reg r => exact w
  | mem g o => exact State.poke_wf w g o v

theorem State.put16_wf {s : State} (w : Memory.wf s.mem = true) (l : Loc Reg16) (v : Word) : Memory.wf (s.put16 l v).mem = true := by
  cases l with
  | reg r => exact w
  | mem g o => exact State.pokeWord_wf w g o v

@[simp] theorem State.put8_flag (s : State) (l : Loc Reg8) (v : Byte) (f : Flag) : (s.put8 l v).flag f = s.flag f := by cases l <;> rfl

@[simp] theorem State.put16_flag (s : State) (l : Loc Reg16) (v : Word) (f : Flag) : (s.put16 l v).flag f = s.flag f := by cases l <;> rfl

@[simp] theorem State.put8_cfg (s : State) (l : Loc Reg8) (v : Byte) : (s.put8 l v).cfg = s.cfg := by cases l <;> rfl

@[simp] theorem State.put16_cfg (s : State) (l : Loc Reg16) (v : Word) : (s.put16 l v).cfg = s.cfg := by cases l <;> rfl

@[simp] theorem State.put8_port (s : State) (l : Loc Reg8) (v : Byte) : (s.put8 l v).port = s.port := by cases l <;> rfl

@[simp] theorem State.put16_port (s : State) (l : Loc Reg16) (v : Word) : (s.put16 l v).port = s.port := by cases l <;> rfl

theorem Frame.put8 (s : State) (l : Loc Reg8) (v : Byte) (fs : List Flag) : Frame s (s.put8 l v) (dest8 l fs) := by
  cases l with
  | reg r => exact Frame.setReg8 s r v (Or.inl (by simp [dest8]))
  | mem g o => exact Frame.poke s g o v (by simp [dest8])

theorem Frame.put16 (s : State) (l : Loc Reg16) (v : Word) (fs : List Flag) : Frame s (s.put16 l v) (dest16 l fs) := by
  cases l with
  | reg r => exact Frame.setReg16 s r v (by simp [dest16])
  | mem g o => exact Frame.pokeWord s g o v (by simp [dest16])

/-! ## Operations that change flags only -/

/-- `t` is `s` but for FLAGS and the count of free values. -/
def FlagsOnly (s t : State) : Prop := ∃ f n, t = { s with flags := f, draws := n }

theorem FlagsOnly.refl (s : State) : FlagsOnly s s := ⟨_, _, rfl⟩

theorem FlagsOnly.trans {s t u : State} (h : FlagsOnly s t) (k : FlagsOnly t u) : FlagsOnly s u := by
  obtain ⟨f, n, rfl⟩ := h
  obtain ⟨g, m, rfl⟩ := k
  exact ⟨g, m, rfl⟩

theorem FlagsOnly.setFlag (s : State) (f : Flag) (b : Bool) : FlagsOnly s (s.setFlag f b) := ⟨_, _, rfl⟩

theorem FlagsOnly.undefFlag (s : State) (f : Flag) (b : Option Bool) : FlagsOnly s (s.undefFlag f b) := by
  obtain ⟨v, n, e⟩ := s.undefFlag_eq f b
  rw [e]; exact ⟨_, _, rfl⟩

theorem FlagsOnly.undefList (s : State) (fs : List Flag) : FlagsOnly s (s.undefList fs) := by
  induction fs generalizing s with
  | nil => exact FlagsOnly.refl s
  | cons f rest ih => exact (FlagsOnly.undefFlag s f none).trans (ih _)

theorem FlagsOnly.szp {w : Nat} (s : State) (r : BitVec w) : FlagsOnly s (s.szp r) :=
  ((FlagsOnly.setFlag s _ _).trans (FlagsOnly.setFlag _ _ _)).trans (FlagsOnly.setFlag _ _ _)

theorem FlagsOnly.addFlags {w : Nat} (s : State) (a b : BitVec w) (c : Bool) : FlagsOnly s (s.addFlags a b c).2 :=
  (((FlagsOnly.setFlag s _ _).trans (FlagsOnly.setFlag _ _ _)).trans (FlagsOnly.setFlag _ _ _)).trans (FlagsOnly.szp _ _)

theorem FlagsOnly.subFlags {w : Nat} (s : State) (a b : BitVec w) (c : Bool) : FlagsOnly s (s.subFlags a b c).2 :=
  (((FlagsOnly.setFlag s _ _).trans (FlagsOnly.setFlag _ _ _)).trans (FlagsOnly.setFlag _ _ _)).trans (FlagsOnly.szp _ _)

theorem FlagsOnly.logicFlags {w : Nat} (s : State) (r : BitVec w) : FlagsOnly s (s.logicFlags r) :=
  (((FlagsOnly.setFlag s _ _).trans (FlagsOnly.setFlag _ _ _)).trans (FlagsOnly.szp _ _)).trans (FlagsOnly.undefFlag _ _ _)

theorem FlagsOnly.direct {s t : State} (h : FlagsOnly s t) (d : s.Direct) : t.Direct := by obtain ⟨f, n, rfl⟩ := h; exact d

theorem FlagsOnly.mem {s t : State} (h : FlagsOnly s t) : t.mem = s.mem := by obtain ⟨f, n, rfl⟩ := h; rfl

theorem FlagsOnly.plainLoc8 {s t : State} (h : FlagsOnly s t) {l : Loc Reg8} (p : s.plainLoc8 l) : t.plainLoc8 l := by
  obtain ⟨f, n, rfl⟩ := h; exact p

theorem FlagsOnly.plainLoc16 {s t : State} (h : FlagsOnly s t) {l : Loc Reg16} (p : s.plainLoc16 l) : t.plainLoc16 l := by
  obtain ⟨f, n, rfl⟩ := h; exact p

theorem FlagsOnly.valueAt8 {s t : State} (h : FlagsOnly s t) (l : Loc Reg8) : t.valueAt8 l = s.valueAt8 l := by obtain ⟨f, n, rfl⟩ := h; rfl

theorem FlagsOnly.valueAt16 {s t : State} (h : FlagsOnly s t) (l : Loc Reg16) : t.valueAt16 l = s.valueAt16 l := by
  obtain ⟨f, n, rfl⟩ := h; rfl

theorem FlagsOnly.stored8 {s t : State} (h : FlagsOnly s t) (l : Loc Reg8) (v : Byte) : t.stored8 l v = s.stored8 l v := by
  obtain ⟨f, n, rfl⟩ := h; rfl

theorem FlagsOnly.stored16 {s t : State} (h : FlagsOnly s t) (l : Loc Reg16) (v : Word) : t.stored16 l v = s.stored16 l v := by
  obtain ⟨f, n, rfl⟩ := h; rfl

/-! ## The shapes (R248) -/

/-- Writing back a result, if there is one. -/
def State.put8? (s : State) (l : Loc Reg8) (v : Option Byte) : State :=
  match v with
  | some r => s.put8 l r
  | none => s

/-- Writing back a result, if there is one. -/
def State.put16? (s : State) (l : Loc Reg16) (v : Option Word) : State :=
  match v with
  | some r => s.put16 l r
  | none => s

/-- `op E` at width 8: the operation on the operand's value, its result written back, for an operation that changes flags only. -/
theorem State.unary8_plain {s : State} (h : s.Direct) (f : Op1 8) {e : Rm8} (p : s.plainLoc8 (s.locate e))
    (k : FlagsOnly s (f (s.valueAt8 (s.locate e)) s).2) :
    s.unary8 f e = (f (s.valueAt8 (s.locate e)) s).2.put8? (s.locate e) (f (s.valueAt8 (s.locate e)) s).1 := by
  simp only [State.unary8, State.read8_plain h p]
  cases (f (s.valueAt8 (s.locate e)) s).1 with
  | none => rfl
  | some r => exact State.write8_plain (k.direct h) (k.plainLoc8 p) r

/-- `op E` at width 16, for an operation that changes flags only. -/
theorem State.unary16_plain {s : State} (h : s.Direct) (f : Op1 16) {e : Rm16} (p : s.plainLoc16 (s.locate e))
    (k : FlagsOnly s (f (s.valueAt16 (s.locate e)) s).2) :
    s.unary16 f e = (f (s.valueAt16 (s.locate e)) s).2.put16? (s.locate e) (f (s.valueAt16 (s.locate e)) s).1 := by
  simp only [State.unary16, State.read16_plain h p]
  cases (f (s.valueAt16 (s.locate e)) s).1 with
  | none => rfl
  | some r => exact State.write16_plain (k.direct h) (k.plainLoc16 p) r

/-- `op r, E` at width 8, for an operation that changes flags only. -/
theorem State.toReg8_plain {s : State} (h : s.Direct) (f : Op2 8) (g : Reg8) {e : Rm8} (p : s.plainLoc8 (s.locate e)) :
    s.toReg8 f g e = (f (s.reg8 g) (s.valueAt8 (s.locate e)) s).2.put8? (.reg g) (f (s.reg8 g) (s.valueAt8 (s.locate e)) s).1 := by
  unfold State.toReg8
  rw [State.read8_plain h p]
  rfl

/-- `op r, E` at width 16, for an operation that changes flags only. -/
theorem State.toReg16_plain {s : State} (h : s.Direct) (f : Op2 16) (g : Reg16) {e : Rm16} (p : s.plainLoc16 (s.locate e)) :
    s.toReg16 f g e = (f (s.reg16 g) (s.valueAt16 (s.locate e)) s).2.put16? (.reg g) (f (s.reg16 g) (s.valueAt16 (s.locate e)) s).1 := by
  unfold State.toReg16
  rw [State.read16_plain h p]
  rfl

/-! ## Far pointers (R220, R355, R359) -/

/-- Both words of a far pointer at `g:o` are RAM or ROM. -/
theorem State.rdFar_plain {s : State} (h : s.Direct) {g o : Word} (p : s.plainWordAt g o) (q : s.plainWordAt g (o + 2)) :
    s.rdFar g o = (s.wordAt g o, s.wordAt g (o + 2), s) := by
  unfold State.rdFar
  rw [State.rdW_plain h p]
  simp only
  rw [State.rdW_plain h q]

end Sys2Proof.Machine
end

