-- ==== Sys2Proof/Laws/Access.lean ====
section
/-!
SUPPORT. Every bus access in full generality, at both levels: what it can change, whatever the address maps to. Each access is one record update of a
few fields, which the lemmas state.
-/

namespace Sys2Proof.Machine

theorem State.record_eq (s : State) (sp : Space) (d : Dir) (a : PAddr) (v : Byte) :
    s.record sp d a v = { s with events := if s.cfg.isEvent sp a then s.events ++ [⟨sp, d, a, v, s.cfg.addrFault sp a⟩] else s.events } := by
  unfold State.record; split <;> rfl

theorem State.openBusByte_eq (s : State) (k : Bool) : ∃ v m, s.openBusByte k = (v, { s with busDraws := m }) := by
  unfold State.openBusByte
  cases s.cfg.openBus <;> simp only
  · exact ⟨_, s.busDraws, rfl⟩
  · cases k
    · exact ⟨_, _, rfl⟩
    · exact ⟨_, s.busDraws, rfl⟩

/-- Reading a value changes at most the count of bytes bus agents have delivered. -/
theorem State.readValue_eq (s : State) (k : Bool) (sp : Space) (a : PAddr) : ∃ v m, s.readValue k sp a = (v, { s with busDraws := m }) := by
  unfold State.readValue
  cases sp <;> simp only
  · cases s.cfg.memKind a <;> simp only
    · exact ⟨_, s.busDraws, rfl⟩
    · exact ⟨_, s.busDraws, rfl⟩
    · exact ⟨_, _, rfl⟩
    · exact State.openBusByte_eq s k
  · cases s.cfg.portKind a <;> simp only
    · exact ⟨_, _, rfl⟩
    · exact State.openBusByte_eq s k
  · cases s.intr.intaVector.or s.devtm.vector <;> simp only
    · exact ⟨_, _, rfl⟩
    · exact ⟨_, s.busDraws, rfl⟩
  · exact ⟨_, s.busDraws, rfl⟩

/-- A read at once changes at most that count and the record of device accesses. -/
theorem State.directRead_eq (s : State) (sp : Space) (a : PAddr) : ∃ v m e, s.directRead sp a = (v, { s with busDraws := m, events := e }) := by
  obtain ⟨v, m, h⟩ := State.readValue_eq s false sp a
  unfold State.directRead
  simp only
  rw [h]
  exact ⟨v, m, _, by rw [State.record_eq]⟩

/-- Storing a byte changes at most memory, by one write. -/
theorem State.storeValue_eq (s : State) (sp : Space) (a : PAddr) (v : Byte) :
    s.storeValue sp a v = s ∨ s.storeValue sp a v = { s with mem := Memory.write s.mem a.toNat v } := by
  unfold State.storeValue
  cases sp <;> simp only
  · cases s.cfg.memKind a <;> simp
  all_goals exact Or.inl trivial

/-- A write at once changes at most memory, the record of device accesses and the older code bytes. -/
theorem State.directWrite_eq (s : State) (sp : Space) (a : PAddr) (v : Byte) :
    ∃ m e st, s.directWrite sp a v = { s with mem := m, events := e, stale := st } ∧ (m = s.mem ∨ m = Memory.write s.mem a.toNat v) := by
  have key : ∀ u : State, ∃ m e, (u.storeValue sp a v).record sp .write a v = { u with mem := m, events := e } ∧
      (m = u.mem ∨ m = Memory.write u.mem a.toNat v) := by
    intro u
    rcases State.storeValue_eq u sp a v with h | h
    · exact ⟨u.mem, _, by rw [h, State.record_eq], Or.inl rfl⟩
    · exact ⟨_, _, by rw [h, State.record_eq], Or.inr rfl⟩
  unfold State.directWrite
  cases sp == Space.memory
  · obtain ⟨m, e, h, k⟩ := key s
    exact ⟨m, e, s.stale, h, k⟩
  · obtain ⟨m, e, h, k⟩ := key (s.noteStale a)
    exact ⟨m, e, (s.noteStale a).stale, h, k⟩

/-- Taking an answer changes the port only, and not its mode; it keeps at most what has been written so far. -/
theorem State.portTake_eq (s : State) (q : PortReq) : ∃ x p, s.portTake q = (x, { s with port := p }) ∧ p.replay = s.port.replay ∧
    (p.saved = s.port.saved ∨ p.saved = some s.arch) := by
  unfold State.portTake
  split
  · exact ⟨_, s.port, rfl, rfl, Or.inl rfl⟩
  · split
    · exact ⟨_, _, rfl, rfl, Or.inl rfl⟩
    · exact ⟨_, _, rfl, rfl, Or.inr rfl⟩

end Sys2Proof.Machine
end

