-- ==== Sys2Proof/Laws/Calm.lean ====
section
/-!
SUPPORT. What a meaning can do to the parts of the machine that are not its own, said once for every instruction: the configuration, the bus, the engine and
the driver are left alone; memory keeps its canonical form and FLAGS its hardwired bits; the queue is left alone, or flushed to the new IP. The whole-machine
invariants follow from this.
-/

namespace Sys2Proof.Machine

/-- The queue and IP after a meaning: untouched, or flushed (R109, R115). -/
def BiuCalm (s t : State) : Prop :=
  (t.biu = s.biu ∧ t.ip = s.ip) ∨
    t.biu = { s.biu with queue := { s.biu.queue with head := 0, tail := 0, len := 0 }, pfp := t.ip, fetchDiscard := s.biu.fetchInflight }

/-- FLAGS has its hardwired bits, in the machine and in what the port has kept of it (R27; log 2). -/
def FlagsOk (s : State) : Prop := flagsImage s.flags = s.flags ∧ ∀ a, s.port.saved = some a → flagsImage a.flags = a.flags

/-- `t` is what a meaning may make of `s`. -/
structure Calm (s t : State) : Prop where
  cfg : t.cfg = s.cfg
  bus : t.bus = s.bus
  eng : t.eng = s.eng
  driver : t.driver = s.driver
  session : t.session = s.session
  replay : t.port.replay = s.port.replay
  mem : Memory.wf s.mem = true → Memory.wf t.mem = true
  flags : FlagsOk s → FlagsOk t
  biu : BiuCalm s t

theorem Calm.refl (s : State) : Calm s s := ⟨rfl, rfl, rfl, rfl, rfl, rfl, id, id, Or.inl ⟨rfl, rfl⟩⟩

theorem Calm.trans {s t u : State} (h : Calm s t) (k : Calm t u) : Calm s u where
  cfg := k.cfg.trans h.cfg
  bus := k.bus.trans h.bus
  eng := k.eng.trans h.eng
  driver := k.driver.trans h.driver
  session := k.session.trans h.session
  replay := k.replay.trans h.replay
  mem := k.mem ∘ h.mem
  flags := k.flags ∘ h.flags
  biu := by
    rcases k.biu with ⟨a, b⟩ | a
    · rcases h.biu with ⟨c, d⟩ | c
      · exact Or.inl ⟨a.trans c, b.trans d⟩
      · exact Or.inr (by rw [a, c, b])
    · rcases h.biu with ⟨c, d⟩ | c
      · exact Or.inr (by rw [a, c])
      · exact Or.inr (by rw [a, c])

/-- An update of fields that `Calm` does not speak of. -/
theorem Calm.ofEq {s t : State} (c : t.cfg = s.cfg) (b : t.bus = s.bus) (e : t.eng = s.eng) (d : t.driver = s.driver) (n : t.session = s.session)
    (p : t.port = s.port) (m : t.mem = s.mem) (f : t.flags = s.flags) (i : t.biu = s.biu) (j : t.ip = s.ip) : Calm s t :=
  ⟨c, b, e, d, n, by rw [p], fun h => m ▸ h, fun h => ⟨by rw [f]; exact h.1, by rw [p]; exact h.2⟩, Or.inl ⟨i, j⟩⟩

/-- A new IP is written, more happens, and the queue is flushed to it: the whole is calm although IP runs ahead of the flush (R362, R373, R450). -/
theorem Calm.redirect {s u v : State} {x : Word} (h : Calm s u) (k : Calm { u with ip := x } v) : Calm s v.flush where
  cfg := k.cfg.trans h.cfg
  bus := k.bus.trans h.bus
  eng := k.eng.trans h.eng
  driver := k.driver.trans h.driver
  session := k.session.trans h.session
  replay := k.replay.trans h.replay
  mem m := k.mem (h.mem m)
  flags f := k.flags (h.flags f)
  biu := by
    refine Or.inr ?_
    show { v.biu with queue := { v.biu.queue with head := 0, tail := 0, len := 0 }, pfp := v.ip, fetchDiscard := v.biu.fetchInflight } = _
    rcases h.biu with ⟨a, _⟩ | a <;> rcases k.biu with ⟨b, _⟩ | b <;> rw [b] <;> simp only <;> rw [a] <;> rfl

/-! ## Registers and flags -/

theorem Calm.setReg16 (s : State) (r : Reg16) (v : Word) : Calm s (s.setReg16 r v) := Calm.ofEq rfl rfl rfl rfl rfl rfl rfl rfl rfl rfl

theorem Calm.setReg8 (s : State) (r : Reg8) (v : Byte) : Calm s (s.setReg8 r v) := Calm.ofEq rfl rfl rfl rfl rfl rfl rfl rfl rfl rfl

theorem Calm.setSeg (s : State) (r : SReg) (v : Word) : Calm s (s.setSeg r v) := Calm.ofEq rfl rfl rfl rfl rfl rfl rfl rfl rfl rfl

theorem Calm.setFlag (s : State) (f : Flag) (b : Bool) : Calm s (s.setFlag f b) :=
  ⟨rfl, rfl, rfl, rfl, rfl, rfl, id, fun h => ⟨State.setFlag_image h.1 f b, h.2⟩, Or.inl ⟨rfl, rfl⟩⟩

theorem Calm.setFlags (s : State) (v : Word) : Calm s (s.setFlags v) := 
  ⟨rfl, rfl, rfl, rfl, rfl, rfl, id, fun h => ⟨flagsImage_idem v, h.2⟩, Or.inl ⟨rfl, rfl⟩⟩

theorem Calm.drawBit (s : State) : Calm s s.drawBit.2 := Calm.ofEq rfl rfl rfl rfl rfl rfl rfl rfl rfl rfl

theorem Calm.drawWord (s : State) : Calm s s.drawWord.2 := Calm.ofEq rfl rfl rfl rfl rfl rfl rfl rfl rfl rfl

theorem Calm.drawNat (s : State) : Calm s s.drawNat.2 := Calm.ofEq rfl rfl rfl rfl rfl rfl rfl rfl rfl rfl

theorem Calm.drawBusByte (s : State) : Calm s s.drawBusByte.2 := Calm.ofEq rfl rfl rfl rfl rfl rfl rfl rfl rfl rfl

theorem Calm.undefFlag (s : State) (f : Flag) (b : Option Bool) : Calm s (s.undefFlag f b) := by
  obtain ⟨v, n, e⟩ := s.undefFlag_eq f b
  rw [e]
  exact (show Calm s { s with draws := n } from Calm.ofEq rfl rfl rfl rfl rfl rfl rfl rfl rfl rfl).trans (Calm.setFlag _ f v)

theorem Calm.undefList (s : State) (fs : List Flag) : Calm s (s.undefList fs) := by
  induction fs generalizing s with
  | nil => exact Calm.refl s
  | cons f rest ih => exact (Calm.undefFlag s f none).trans (ih _)

theorem Calm.szp {w : Nat} (s : State) (r : BitVec w) : Calm s (s.szp r) :=
  ((Calm.setFlag s _ _).trans (Calm.setFlag _ _ _)).trans (Calm.setFlag _ _ _)

theorem Calm.addFlags {w : Nat} (s : State) (a b : BitVec w) (c : Bool) : Calm s (s.addFlags a b c).2 :=
  (((Calm.setFlag s _ _).trans (Calm.setFlag _ _ _)).trans (Calm.setFlag _ _ _)).trans (Calm.szp _ _)

theorem Calm.subFlags {w : Nat} (s : State) (a b : BitVec w) (c : Bool) : Calm s (s.subFlags a b c).2 :=
  (((Calm.setFlag s _ _).trans (Calm.setFlag _ _ _)).trans (Calm.setFlag _ _ _)).trans (Calm.szp _ _)

theorem Calm.logicFlags {w : Nat} (s : State) (r : BitVec w) : Calm s (s.logicFlags r) :=
  (((Calm.setFlag s _ _).trans (Calm.setFlag _ _ _)).trans (Calm.szp _ _)).trans (Calm.undefFlag _ _ _)

/-! ## Accesses -/

theorem Calm.ofPort {s : State} {p : Port} (h : p.replay = s.port.replay) (k : p.saved = s.port.saved ∨ p.saved = some s.arch) :
    Calm s { s with port := p } :=
  ⟨rfl, rfl, rfl, rfl, rfl, h, id, fun f => ⟨f.1, fun a e => by
    rcases k with k | k
    · exact f.2 a (k ▸ e)
    · rw [show p.saved = some a from e] at k; cases k; exact f.1⟩, Or.inl ⟨rfl, rfl⟩⟩

theorem Calm.portTake (s : State) (q : PortReq) : Calm s (s.portTake q).2 := by
  obtain ⟨x, p, e, h, k⟩ := s.portTake_eq q
  rw [e]; exact Calm.ofPort h k

theorem Calm.directRead (s : State) (sp : Space) (a : PAddr) : Calm s (s.directRead sp a).2 := by
  obtain ⟨v, m, e, h⟩ := s.directRead_eq sp a
  rw [h]; exact Calm.ofEq rfl rfl rfl rfl rfl rfl rfl rfl rfl rfl

theorem Calm.directWrite (s : State) (sp : Space) (a : PAddr) (v : Byte) : Calm s (s.directWrite sp a v) := by
  obtain ⟨m, e, st, h, k⟩ := s.directWrite_eq sp a v
  rw [h]
  refine ⟨rfl, rfl, rfl, rfl, rfl, rfl, fun w => ?_, id, Or.inl ⟨rfl, rfl⟩⟩
  rcases k with k | k <;> simp only [k]
  · exact w
  · exact Memory.write_keeps_wf w a v

theorem Calm.busRead (s : State) (sp : Space) (a : PAddr) : Calm s (s.busRead sp a).2 := by
  unfold State.busRead
  split
  · have k := Calm.portTake s (.access ⟨sp, .read, a, 0#8⟩)
    rcases h : s.portTake (.access ⟨sp, .read, a, 0#8⟩) with ⟨x, t⟩
    rw [h] at k
    split <;> rename_i e <;> cases e <;> exact k
  · exact Calm.directRead s sp a

theorem Calm.busWrite (s : State) (sp : Space) (a : PAddr) (v : Byte) : Calm s (s.busWrite sp a v) := by
  unfold State.busWrite
  split
  · exact Calm.portTake s _
  · exact Calm.directWrite s sp a v

theorem Calm.noteOdd (s : State) (o : Word) : Calm s (s.noteOdd o) := by
  unfold State.noteOdd; split
  · exact Calm.ofPort rfl (Or.inl rfl)
  · exact Calm.refl s

theorem Calm.noteBranch (s : State) (b : Bool) : Calm s (s.noteBranch b) := by
  unfold State.noteBranch; split
  · exact Calm.ofPort rfl (Or.inl rfl)
  · exact Calm.refl s

theorem Calm.rdB (s : State) (g o : Word) : Calm s (s.rdB g o).2 := Calm.busRead s _ _

theorem Calm.rdW (s : State) (g o : Word) : Calm s (s.rdW g o).2 := ((Calm.noteOdd s o).trans (Calm.rdB _ _ _)).trans (Calm.rdB _ _ _)

theorem Calm.wrB (s : State) (g o : Word) (v : Byte) : Calm s (s.wrB g o v) := Calm.busWrite s _ _ _

theorem Calm.wrW (s : State) (g o v : Word) : Calm s (s.wrW g o v) := ((Calm.noteOdd s o).trans (Calm.wrB _ _ _ _)).trans (Calm.wrB _ _ _ _)

theorem Calm.ioRdB (s : State) (p : Word) : Calm s (s.ioRdB p).2 := Calm.busRead s _ _

theorem Calm.ioRdW (s : State) (p : Word) : Calm s (s.ioRdW p).2 := (Calm.ioRdB s p).trans (Calm.ioRdB _ _)

theorem Calm.ioWrB (s : State) (p : Word) (v : Byte) : Calm s (s.ioWrB p v) := Calm.busWrite s _ _ _

theorem Calm.ioWrW (s : State) (p v : Word) : Calm s (s.ioWrW p v) := (Calm.ioWrB s p _).trans (Calm.ioWrB _ _ _)

theorem Calm.push (s : State) (v : Word) : Calm s (s.push v) := (Calm.setReg16 s _ _).trans (Calm.wrW _ _ _ _)

theorem Calm.pop (s : State) : Calm s s.pop.2 := (Calm.rdW s _ _).trans (Calm.setReg16 _ _ _)

/-! ## Control -/

theorem Calm.jump (s : State) (t : Word) : Calm s (s.jump t) := (Calm.refl s).redirect (Calm.refl _)

theorem Calm.farJump (s : State) (c t : Word) : Calm s (s.farJump c t) := (Calm.refl s).redirect (Calm.setSeg _ _ _)

theorem Calm.raise (s : State) (n : Byte) (sip : Word) : Calm s (s.raise n sip) :=
  (((((((Calm.push s _).trans (Calm.setFlag _ _ _)).trans (Calm.setFlag _ _ _)).trans (Calm.push _ _)).trans (Calm.push _ _)).trans
    (Calm.rdW _ _ _)).redirect ((Calm.rdW _ _ _).trans (Calm.setSeg _ _ _))).trans (Calm.ofEq rfl rfl rfl rfl rfl rfl rfl rfl rfl rfl)

theorem Calm.raiseInternal (s : State) (n : Byte) : Calm s (s.raiseInternal n) :=
  (Calm.raise s n s.ip).trans (Calm.ofEq rfl rfl rfl rfl rfl rfl rfl rfl rfl rfl)

theorem Calm.inta (s : State) : Calm s s.inta.2 := (Calm.busRead s _ _).trans (Calm.busRead _ _ _)

theorem Calm.enterEvent (s : State) (ev : Event) (sip : Word) : Calm s (s.enterEvent ev sip) := by
  cases ev with
  | nmi => exact Calm.raise s _ _
  | intr => exact (Calm.inta s).trans (Calm.raise _ _ _)
  | trap => exact Calm.raise s _ _

theorem Calm.acceptEvent (s : State) (ev : Event) : Calm s (s.acceptEvent ev) := by
  cases ev with
  | nmi => exact Calm.ofEq rfl rfl rfl rfl rfl rfl rfl rfl rfl rfl
  | intr => exact Calm.refl s
  | trap => exact Calm.refl s

/-- A far return's target is popped, more happens, and the queue is flushed. -/
theorem Calm.popFarTarget {s v : State} (k : Calm s.popFarTarget v) : Calm s v.flush :=
  (Calm.pop s).redirect (((Calm.pop _).trans (Calm.setSeg _ _ _)).trans k)

theorem Calm.iret (s : State) : Calm s s.iret := Calm.popFarTarget ((Calm.pop _).trans (Calm.setFlags _ _))

end Sys2Proof.Machine
end

