-- ==== Sys2Proof/Laws/Control.lean ====
section
/-!
SUPPORT. The stack, redirecting control and interrupt entry at the instruction level, each said once: what a push, a pop, a jump, a return and an entry leave,
and their frames.
-/

namespace Sys2Proof.Machine

/-! ## Addresses -/

/-- Two offsets of one segment never share an address (R72). -/
theorem addrOf_inj {g a b : Word} (h : addrOf g a = addrOf g b) : a = b := by
  simp only [addrOf, phys_toNat] at h
  apply BitVec.eq_of_toNat_eq
  have := g.isLt; have := a.isLt; have := b.isLt
  omega

theorem wordAddrs_disjoint {g a b : Word} (h : a ≠ b ∧ a ≠ b + 1 ∧ a + 1 ≠ b) : ∀ x ∈ wordAddrs g a, x ∉ wordAddrs g b := by
  intro x ha hb
  simp only [wordAddrs, List.mem_cons, List.not_mem_nil, or_false] at ha hb
  rcases ha with rfl | rfl <;> rcases hb with hb | hb <;> have := addrOf_inj hb
  · exact h.1 this
  · exact h.2.1 this
  · exact h.2.2 this
  · exact h.1 (by bv_omega)

theorem State.wordAt_of_read {s t : State} {g o : Word} (m : ∀ a ∈ wordAddrs g o, Memory.read t.mem a = Memory.read s.mem a) :
    t.wordAt g o = s.wordAt g o := by
  simp only [wordAddrs, List.mem_cons, List.not_mem_nil, or_false] at m
  simp only [State.wordAt, State.byteAt, m _ (Or.inl rfl), m _ (Or.inr rfl)]

theorem State.storedWord_of_read {s t : State} {g o v : Word} (c : t.cfg = s.cfg) (m : ∀ a ∈ wordAddrs g o, Memory.read t.mem a = Memory.read s.mem a) :
    t.storedWord g o v = s.storedWord g o v := by
  simp only [wordAddrs, List.mem_cons, List.not_mem_nil, or_false] at m
  simp only [State.storedWord, State.storedByte, State.byteAt, c, m _ (Or.inl rfl), m _ (Or.inr rfl)]

/-! ## Push and pop (R13) -/

/-- What a push onto a stack in RAM or ROM does. -/
theorem State.push_spec {s : State} (d : s.Direct) (w : Memory.wf s.mem = true) (p : s.pushPlain) (v : Word) : Pushed s (s.push v) v := by
  rw [State.push_plain d p]
  exact ⟨by simp, State.wordAt_pokeWord (s := s.setReg16 .sp _) w _ _ _, (Frame.setReg16 _ _ _ (by simp)).andThen (Frame.pokeWord _ _ _ _ (by simp))⟩

theorem State.push_keeps {s : State} (d : s.Direct) (w : Memory.wf s.mem = true) (p : s.pushPlain) (v : Word) :
    (s.push v).Direct ∧ Memory.wf (s.push v).mem = true ∧ (s.push v).cfg = s.cfg ∧ (s.push v).segs = s.segs ∧ (s.push v).ip = s.ip ∧
      (s.push v).flags = s.flags := by
  rw [State.push_plain d p]
  exact ⟨d, State.pokeWord_wf (s := s.setReg16 .sp _) w _ _ _, rfl, rfl, rfl, rfl⟩

/-- What a pop from a stack in RAM or ROM does. -/
theorem State.pop_spec {s : State} (d : s.Direct) (p : s.popPlain) : s.pop = (s.top, s.setReg16 .sp (s.reg16 .sp + 2)) := State.pop_plain d p

/-- Two pushes, one below the other. -/
theorem State.push_push {s : State} (d : s.Direct) (w : Memory.wf s.mem = true) (p : s.pushPlain)
    (q : s.plainWordAt (s.seg .ss) (s.reg16 .sp - 4)) (v x : Word) :
    let t := (s.push v).push x
    t.reg16 .sp = s.reg16 .sp - 4 ∧ t.wordAt (s.seg .ss) (s.reg16 .sp - 2) = s.storedWord (s.seg .ss) (s.reg16 .sp - 2) v ∧
      t.wordAt (s.seg .ss) (s.reg16 .sp - 4) = s.storedWord (s.seg .ss) (s.reg16 .sp - 4) x ∧
      Frame s t { words := [.sp], mem := wordAddrs (s.seg .ss) (s.reg16 .sp - 2) ++ wordAddrs (s.seg .ss) (s.reg16 .sp - 4) } ∧
      t.Direct ∧ Memory.wf t.mem = true ∧ t.cfg = s.cfg ∧ t.segs = s.segs ∧ t.ip = s.ip ∧ t.flags = s.flags := by
  have a := State.push_spec d w p v
  obtain ⟨d1, w1, c1, g1, i1, f1⟩ := State.push_keeps d w p v
  have sp4 : s.reg16 .sp - 2 - 2 = s.reg16 .sp - 4 := by rw [BitVec.sub_sub]; rfl
  have ss1 : (s.push v).seg .ss = s.seg .ss := by simp only [State.seg, g1]
  have p1 : (s.push v).pushPlain := by
    simp only [State.pushPlain, State.plainWordAt, State.plainAt, c1, ss1, a.sp, sp4]; exact q
  have b := State.push_spec d1 w1 p1 x
  obtain ⟨d2, w2, c2, g2, i2, f2⟩ := State.push_keeps d1 w1 p1 x
  have b1 := b.sp; have b2 := b.word; have b3 := b.frame
  rw [a.sp, sp4] at b1
  rw [a.sp, sp4, ss1] at b2 b3
  have dis : ∀ y ∈ wordAddrs (s.seg .ss) (s.reg16 .sp - 2), y ∉ wordAddrs (s.seg .ss) (s.reg16 .sp - 4) :=
    wordAddrs_disjoint (by refine ⟨?_, ?_, ?_⟩ <;> bv_omega)
  refine ⟨b1, ?_, ?_, ?_, d2, w2, c2.trans c1, g2.trans g1, i2.trans i1, f2.trans f1⟩
  · rw [← a.word]
    exact State.wordAt_of_read fun y hy => b3.regs.mem y (dis y hy)
  · rw [b2]
    exact State.storedWord_of_read c1 fun y hy => a.frame.regs.mem y fun hb => dis y hb hy
  · exact (a.frame.mono ⟨fun r m => by simpa using m, fun r m => by simp at m, fun r m => by simp at m, fun r m => by simp at m,
      fun y m => by simp; exact Or.inl m⟩).andThen (b3.mono ⟨fun r m => by simpa using m, fun r m => by simp at m, fun r m => by simp at m,
      fun r m => by simp at m, fun y m => by simp; exact Or.inr m⟩)

/-! ## Jumps (R109, R350) -/

/-- What redirecting control adds to a frame. -/
theorem JumpFrame.jump {s t : State} {d : Dests} {target : Word} (h : Frame s t d) : JumpFrame s (t.jump target) d target := by
  have e : t.others.biu = s.others.biu := congrArg State.biu h.others
  have e : t.biu = s.biu := e
  refine ⟨⟨h.regs.words, h.regs.bytes, h.regs.segs, h.regs.flags, h.regs.reserved, h.regs.mem⟩, rfl, ?_, ⟨rfl, rfl⟩, ?_⟩
  · rw [← e]; rfl
  · exact congrArg (fun u : State => { u with biu := ⟨⟨[], 0, 0, 0⟩, 0, false, false, false⟩, fetchRace := none }) h.others

theorem JumpFrame.farJump {s t : State} {d : Dests} {c target : Word} (h : Frame s t d) (m : SReg.cs ∈ d.segs) :
    JumpFrame s (t.farJump c target) d target := JumpFrame.jump (t := t.setSeg .cs c) (h.andThen (Frame.setSeg _ _ _ m))

theorem State.farJump_cs (s : State) (c t : Word) : (s.farJump c t).seg .cs = c := rfl

/-! ## Interrupt entry (R450) -/

/-- The end of an interrupt entry: the vector is read and control goes there. -/
def State.toVector (s : State) (n : Byte) : State :=
  let v := n.setWidth 16 * 4
  let o := s.rdW 0#16 v
  let c := { o.2 with ip := o.1 }.rdW 0#16 (v + 2)
  let t := (c.2.setSeg .cs c.1).flush
  { t with intr := { t.intr with halted := false } }

theorem State.raise_eq (s : State) (n : Byte) (sip : Word) :
    s.raise n sip = (((((s.push s.flagsWord).setFlag .intf false).setFlag .tf false).push
      ((((s.push s.flagsWord).setFlag .intf false).setFlag .tf false).seg .cs)).push sip).toVector n := rfl

/-- What an interrupt entry does where its stack words and its vector are RAM or ROM. -/
theorem State.raise_spec {s : State} (d : s.Direct) (w : Memory.wf s.mem = true) (n : Byte) (sip : Word) (p : s.EntryPlain n) :
    IntEntry s (s.raise n sip) n sip := by
  have a := State.push_spec d w p.first s.flagsWord
  obtain ⟨d1, w1, c1, g1, i1, f1⟩ := State.push_keeps d w p.first s.flagsWord
  rw [State.raise_eq]
  generalize hs1 : s.push s.flagsWord = s1 at *
  have w2 : Memory.wf ((s1.setFlag .intf false).setFlag .tf false).mem = true := w1
  have d2 : ((s1.setFlag .intf false).setFlag .tf false).Direct := d1
  generalize hs2 : (s1.setFlag .intf false).setFlag .tf false = s2 at *
  have sp2 : s2.reg16 .sp = s.reg16 .sp - 2 := by rw [← hs2]; exact a.sp
  have ss2 : s2.seg .ss = s.seg .ss := by rw [← hs2]; show s1.segs.get .ss = _; rw [g1]; rfl
  have cs2 : s2.seg .cs = s.seg .cs := by rw [← hs2]; show s1.segs.get .cs = _; rw [g1]; rfl
  have c2 : s2.cfg = s.cfg := by rw [← hs2]; exact c1
  have m2 : s2.mem = s1.mem := by rw [← hs2]; rfl
  have k4 : s.reg16 .sp - 2 - 2 = s.reg16 .sp - 4 := by rw [BitVec.sub_sub]; rfl
  have k6 : s.reg16 .sp - 2 - 4 = s.reg16 .sp - 6 := by rw [BitVec.sub_sub]; rfl
  have pl : ∀ g o, s2.plainWordAt g o = s.plainWordAt g o := by intro g o; simp only [State.plainWordAt, State.plainAt, c2]
  have p2 : s2.pushPlain := by unfold State.pushPlain; rw [pl, sp2, ss2, k4]; exact p.second
  have p3 : s2.plainWordAt (s2.seg .ss) (s2.reg16 .sp - 4) := by rw [pl, sp2, ss2, k6]; exact p.third
  have b := State.push_push d2 w2 p2 p3 (s2.seg .cs) sip
  simp only at b
  generalize hs4 : (s2.push (s2.seg .cs)).push sip = s4 at *
  obtain ⟨b1, b2, b3, b4, b5, b6, b7, b8, b9, b10⟩ := b
  rw [sp2, ss2, k4] at b2
  rw [sp2, ss2, k6] at b3
  rw [sp2, ss2, k4, k6] at b4
  rw [sp2, k6] at b1
  have pl4 : ∀ g o, s4.plainWordAt g o = s.plainWordAt g o := by intro g o; simp only [State.plainWordAt, State.plainAt, b7, c2]
  have v : s4.toVector n = { s4.farJump (s4.wordAt 0#16 (n.setWidth 16 * 4 + 2)) (s4.wordAt 0#16 (n.setWidth 16 * 4)) with
      intr := { s4.intr with halted := false } } := by
    unfold State.toVector
    simp only
    rw [State.rdW_plain b5 ((pl4 _ _).symm ▸ p.offset)]
    simp only
    rw [State.rdW_plain (s := { s4 with ip := s4.wordAt 0#16 (n.setWidth 16 * 4) }) b5
      (show s4.plainWordAt _ _ from (pl4 _ _).symm ▸ p.segment)]
    rfl
  rw [v]
  have x1 : Frame s s1 { words := [.sp], segs := [.cs], flags := [.intf, .tf], mem := s.entryAddrs } :=
    a.frame.mono ⟨fun r m => m, fun r m => by simp at m, fun r m => by simp at m, fun r m => by simp at m,
      fun y m => by simp [State.entryAddrs]; exact Or.inl m⟩
  have x2 : Frame s1 s2 { words := [.sp], segs := [.cs], flags := [.intf, .tf], mem := s.entryAddrs } := by
    rw [← hs2]; exact (Frame.setFlag _ _ _ (by simp)).andThen (Frame.setFlag _ _ _ (by simp))
  have x4 : Frame s2 s4 { words := [.sp], segs := [.cs], flags := [.intf, .tf], mem := s.entryAddrs } :=
    b4.mono ⟨fun r m => m, fun r m => by simp at m, fun r m => by simp at m, fun r m => by simp at m,
      fun y m => by simp [State.entryAddrs] at m ⊢; tauto⟩
  have j := JumpFrame.farJump (c := s4.wordAt 0#16 (n.setWidth 16 * 4 + 2)) (target := s4.wordAt 0#16 (n.setWidth 16 * 4))
    ((x1.andThen x2).andThen x4) (by simp)
  refine ⟨b1, ?_, ?_, ?_, ?_, State.farJump_cs _ _ _, ?_⟩
  · show s4.wordAt _ _ = _
    rw [← a.word]
    refine State.wordAt_of_read fun y hy => ?_
    rw [← m2]
    apply b4.regs.mem
    simp only [List.mem_append, not_or]
    constructor <;> exact wordAddrs_disjoint (by refine ⟨?_, ?_, ?_⟩ <;> bv_omega) _ hy
  · show s4.wordAt _ _ = _
    rw [b2, cs2]
    refine State.storedWord_of_read c2 fun y hy => ?_
    rw [m2]
    exact a.frame.regs.mem _ (wordAddrs_disjoint (by refine ⟨?_, ?_, ?_⟩ <;> bv_omega) _ hy)
  · show s4.wordAt _ _ = _
    rw [b3]
    refine State.storedWord_of_read c2 fun y hy => ?_
    rw [m2]
    exact a.frame.regs.mem _ (wordAddrs_disjoint (by refine ⟨?_, ?_, ?_⟩ <;> bv_omega) _ hy)
  · constructor
    · show s4.flags.getLsbD _ = _
      rw [b10, ← hs2]; exact (State.flag_setFlag _ _ _ _).trans (by simp)
    · show s4.flags.getLsbD _ = _
      rw [b10, ← hs2]; exact (State.flag_setFlag _ _ _ _).trans (by simp)
  · refine ⟨⟨j.regs.words, j.regs.bytes, j.regs.segs, j.regs.flags, j.regs.reserved, j.regs.mem⟩, j.ip, j.queue, j.race, ?_⟩
    have e : (s4.farJump (s4.wordAt 0#16 (n.setWidth 16 * 4 + 2)) (s4.wordAt 0#16 (n.setWidth 16 * 4))).othersBeyondFlush.intr =
        s.othersBeyondFlush.intr := congrArg State.intr j.others
    have e : (s4.farJump (s4.wordAt 0#16 (n.setWidth 16 * 4 + 2)) (s4.wordAt 0#16 (n.setWidth 16 * 4))).intr = s.intr := e
    have k := congrArg (fun u : State => { u with intr := { s.intr with halted := false } }) j.others
    rw [← e] at k
    refine Eq.trans ?_ (k.trans ?_)
    · rfl
    · rw [e]; rfl

theorem IntEntry.withEntered {s t : State} {n : Byte} {sip : Word} (h : IntEntry s t n sip) (e : Entered) :
    IntEntry { s with entered := e } { t with entered := e } n sip := by
  obtain ⟨a, b, c, d, f, g, ⟨⟨w, y, z, x, v, u⟩, i, q, r, o⟩⟩ := h
  exact ⟨a, b, c, d, f, g, ⟨⟨w, y, z, x, v, u⟩, i, q, r, congrArg (fun u : State => { u with entered := e }) o⟩⟩

/-- What an interrupt an instruction enters by itself does (R441, R444-R446). -/
theorem State.raiseInternal_spec {s : State} (d : s.Direct) (w : Memory.wf s.mem = true) (n : Byte) (p : s.EntryPlain n) :
    OwnEntry s (s.raiseInternal n) n := (State.raise_spec d w n s.ip p).withEntered .internal

/-! ## Return from an interrupt (R373) -/

/-- What popping a far target does where both words are RAM or ROM. -/
theorem State.popFarTarget_plain {s : State} (d : s.Direct) (p : s.popPlain) (q : s.plainWordAt (s.seg .ss) (s.reg16 .sp + 2)) :
    s.popFarTarget = { (s.setReg16 .sp (s.reg16 .sp + 4)).setSeg .cs (s.wordAt (s.seg .ss) (s.reg16 .sp + 2)) with ip := s.top } := by
  have sp4 : s.reg16 .sp + 2 + 2 = s.reg16 .sp + 4 := by rw [BitVec.add_assoc]; rfl
  have e : ({ s.setReg16 .sp (s.reg16 .sp + 2) with ip := s.top } : State).pop =
      (s.wordAt (s.seg .ss) (s.reg16 .sp + 2), { s.setReg16 .sp (s.reg16 .sp + 4) with ip := s.top }) := by
    rw [State.pop_spec (s := { s.setReg16 .sp (s.reg16 .sp + 2) with ip := s.top }) d q, ← sp4]; rfl
  unfold State.popFarTarget
  simp only
  rw [State.pop_spec d p]
  simp only
  rw [e]; rfl

/-- What IRET does where the three words on the stack are RAM or ROM. -/
theorem State.iret_plain {s : State} (d : s.Direct) (p : s.popPlain) (q : s.plainWordAt (s.seg .ss) (s.reg16 .sp + 2))
    (r : s.plainWordAt (s.seg .ss) (s.reg16 .sp + 4)) :
    s.iret = ((s.setReg16 .sp (s.reg16 .sp + 6)).setFlags (s.wordAt (s.seg .ss) (s.reg16 .sp + 4))).farJump
      (s.wordAt (s.seg .ss) (s.reg16 .sp + 2)) s.top := by
  have sp6 : s.reg16 .sp + 4 + 2 = s.reg16 .sp + 6 := by rw [BitVec.add_assoc]; rfl
  have e : ({ (s.setReg16 .sp (s.reg16 .sp + 4)).setSeg .cs (s.wordAt (s.seg .ss) (s.reg16 .sp + 2)) with ip := s.top } : State).pop =
      (s.wordAt (s.seg .ss) (s.reg16 .sp + 4), { (s.setReg16 .sp (s.reg16 .sp + 6)).setSeg .cs (s.wordAt (s.seg .ss) (s.reg16 .sp + 2)) with ip := s.top }) := by
    rw [State.pop_spec (s := { (s.setReg16 .sp (s.reg16 .sp + 4)).setSeg .cs (s.wordAt (s.seg .ss) (s.reg16 .sp + 2)) with ip := s.top }) d r, ← sp6]; rfl
  unfold State.iret
  rw [State.popFarTarget_plain d p q]
  simp only
  rw [e]; rfl

end Sys2Proof.Machine
end

