-- ==== Sys2Proof/Laws/Decode.lean ====
section
/-!
SUPPORT. The readers of the decoder, one lemma each way: read back after the encoder wrote, and what bytes a successful read took. `Reads n f` says that
`f` answers on any list of `n` bytes or more and takes at most `n`.
-/

namespace Sys2Proof

theorem Reg16.ofCode_code (r : Reg16) : Reg16.ofCode r.code = r := by cases r <;> rfl

theorem Reg8.ofCode_code (r : Reg8) : Reg8.ofCode r.code = r := by cases r <;> rfl

theorem EaBase.ofCode_code (r : EaBase) : EaBase.ofCode r.code = r := by cases r <;> rfl

theorem Reg16.code_ofCode (c : BitVec 3) : (Reg16.ofCode c).code = c := by revert c; decide

theorem Reg8.code_ofCode (c : BitVec 3) : (Reg8.ofCode c).code = c := by revert c; decide

theorem EaBase.code_ofCode (c : BitVec 3) : (EaBase.ofCode c).code = c := by revert c; decide

theorem wordOf_wordBytes (w : Word) : wordOf (w.extractLsb' 0 8) (w.extractLsb' 8 8) = w := by
  unfold wordOf; apply BitVec.eq_of_getLsbD_eq; intro i hi
  rw [BitVec.getLsbD_append]; split <;> rw [BitVec.getLsbD_extractLsb'] <;> rename_i h
  · simp [h]
  · have : i - 8 < 8 := by omega
    simp only [this, decide_true, Bool.true_and]; congr 1; omega

theorem wordBytes_wordOf (lo hi : Byte) : wordBytes (wordOf lo hi) = [lo, hi] := by
  have a : (hi ++ lo : BitVec 16).extractLsb' 0 8 = lo := by
    apply BitVec.eq_of_getLsbD_eq; intro i h
    rw [BitVec.getLsbD_extractLsb', BitVec.getLsbD_append]
    have : 0 + i < 8 := by omega
    simp only [h, if_true, decide_true, Bool.true_and, Nat.zero_add]
  have b : (hi ++ lo : BitVec 16).extractLsb' 8 8 = hi := by
    apply BitVec.eq_of_getLsbD_eq; intro i h
    rw [BitVec.getLsbD_extractLsb', BitVec.getLsbD_append]
    have : ¬ 8 + i < 8 := by omega
    have e : 8 + i - 8 = i := by omega
    simp only [this, h, if_false, decide_true, Bool.true_and, e]
  unfold wordBytes wordOf; rw [a, b]

theorem modrmByte_fields (m : BitVec 2) (g r : BitVec 3) : modField (modrmByte m g r) = m ∧ regField (modrmByte m g r) = g ∧ rmField (modrmByte m g r) = r := by
  revert m g r; decide

theorem modrmByte_ofFields (b : Byte) : modrmByte (modField b) (regField b) (rmField b) = b := by revert b; decide

theorem takeWord_bytes (w : Word) (rest : List Byte) (k) : takeWord (wordBytes w ++ rest) k = k w rest := by
  show k (wordOf _ _) rest = _; rw [wordOf_wordBytes]

/-- The memory operand of an E operand, if any, has an encoding. -/
def Rm.EaWf {R : Type} (e : Rm R) : Prop := ∀ ea, e.ea? = some ea → ea.wf = true

theorem takeE_encE {R : Type} (code : R → BitVec 3) (g : BitVec 3) (e : Rm R) (h : e.EaWf) (rest : List Byte) (k) :
    takeE (encE code g e ++ rest) k = k g (e.map code) rest := by
  cases e with
  | reg r =>
    obtain ⟨a, b, c⟩ := modrmByte_fields 3#2 g (code r)
    simp only [encE, takeE, List.cons_append, List.nil_append, takeByte, a, b, c, Rm.map]; rfl
  | mem ea =>
    cases ea with
    | nodisp bb =>
      obtain ⟨a, b, c⟩ := modrmByte_fields 0#2 g bb.code
      have w := h _ rfl
      simp only [encE, takeE, List.cons_append, List.nil_append, takeByte, a, b, c, Rm.map, EaBase.ofCode_code]
      cases bb <;> first | rfl | (simp [Ea.wf] at w)
    | disp8 bb d =>
      obtain ⟨a, b, c⟩ := modrmByte_fields 1#2 g bb.code
      simp only [encE, takeE, List.cons_append, List.nil_append, takeByte, a, b, c, Rm.map, EaBase.ofCode_code]; rfl
    | disp16 bb d =>
      obtain ⟨a, b, c⟩ := modrmByte_fields 2#2 g bb.code
      simp only [encE, takeE, List.cons_append, takeByte, a, b, c, Rm.map, EaBase.ofCode_code]
      exact takeWord_bytes _ _ _
    | direct d =>
      obtain ⟨a, b, c⟩ := modrmByte_fields 0#2 g 6#3
      simp only [encE, takeE, List.cons_append, takeByte, a, b, c, Rm.map]
      show (if True then takeWord (wordBytes d ++ rest) fun d rest => k g (Rm.mem (Ea.direct d)) rest else _) = _
      rw [if_pos trivial]
      exact takeWord_bytes _ _ _

theorem Rm.map_ofCode8 (e : Rm8) : (e.map Reg8.code).map Reg8.ofCode = e := by cases e <;> simp [Rm.map, Reg8.ofCode_code]

theorem Rm.map_ofCode16 (e : Rm16) : (e.map Reg16.code).map Reg16.ofCode = e := by cases e <;> simp [Rm.map, Reg16.ofCode_code]

theorem takeE8_encE8 (g) (e : Rm8) (h : e.EaWf) (rest k) : takeE8 (encE8 g e ++ rest) k = k g e rest := by
  unfold takeE8 encE8; rw [takeE_encE _ _ _ h, Rm.map_ofCode8]

theorem takeE16_encE16 (g) (e : Rm16) (h : e.EaWf) (rest k) : takeE16 (encE16 g e ++ rest) k = k g e rest := by
  unfold takeE16 encE16; rw [takeE_encE _ _ _ h, Rm.map_ofCode16]

/-! ## What a successful read took -/

theorem takeByte_inv {bs k i rest} (h : takeByte bs k = .ok i rest) : ∃ b r, bs = b :: r ∧ k b r = .ok i rest := by
  cases bs with
  | nil => cases h
  | cons b r => exact ⟨b, r, rfl, h⟩

theorem takeWord_inv {bs k i rest} (h : takeWord bs k = .ok i rest) : ∃ w r, bs = wordBytes w ++ r ∧ k w r = .ok i rest := by
  obtain ⟨b, r, rfl, h1⟩ := takeByte_inv h
  obtain ⟨c, q, rfl, h2⟩ := takeByte_inv h1
  exact ⟨wordOf b c, q, by rw [wordBytes_wordOf]; rfl, h2⟩

theorem takeE_inv {bs k i rest} (h : takeE bs k = .ok i rest) : ∃ g e r, e.EaWf ∧ bs = encE (fun c : BitVec 3 => c) g e ++ r ∧ k g e r = .ok i rest := by
  obtain ⟨b, r, rfl, h1⟩ := takeByte_inv h
  clear h
  have h := h1
  have m := modrmByte_ofFields b
  split at h
  · rename_i hm
    have hm : modField b = 0#2 := by apply BitVec.eq_of_toNat_eq; rw [hm]; rfl
    split at h
    · rename_i h6
      obtain ⟨w, q, rfl, h'⟩ := takeWord_inv h
      refine ⟨_, _, q, ?_, ?_, h'⟩
      · intro ea e; cases e; rfl
      · rw [hm, h6] at m; simp only [encE, List.cons_append]; rw [m]
    · rename_i h6
      refine ⟨_, _, r, ?_, ?_, h⟩
      · intro ea e; cases e
        have : ∀ c : BitVec 3, c ≠ 6#3 → (Ea.nodisp (EaBase.ofCode c)).wf = true := by decide
        exact this _ h6
      · rw [hm] at m; simp only [encE, EaBase.code_ofCode, List.cons_append, List.nil_append]; rw [m]
  · rename_i hm
    have hm : modField b = 1#2 := by apply BitVec.eq_of_toNat_eq; rw [hm]; rfl
    obtain ⟨d, q, rfl, h'⟩ := takeByte_inv h
    refine ⟨_, _, q, ?_, ?_, h'⟩
    · intro ea e; cases e; rfl
    · rw [hm] at m; simp only [encE, EaBase.code_ofCode, List.cons_append, List.nil_append]; rw [m]
  · rename_i hm
    have hm : modField b = 2#2 := by apply BitVec.eq_of_toNat_eq; rw [hm]; rfl
    obtain ⟨d, q, rfl, h'⟩ := takeWord_inv h
    refine ⟨_, _, q, ?_, ?_, h'⟩
    · intro ea e; cases e; rfl
    · rw [hm] at m; simp only [encE, EaBase.code_ofCode, List.cons_append]; rw [m]
  · rename_i h0 h1 h2
    have hm : modField b = 3#2 := by
      have : ∀ c : BitVec 2, c.toNat ≠ 0 → c.toNat ≠ 1 → c.toNat ≠ 2 → c = 3#2 := by decide
      exact this _ h0 h1 h2
    refine ⟨_, _, r, ?_, ?_, h⟩
    · intro ea e; cases e
    · rw [hm] at m; simp only [encE, List.cons_append, List.nil_append]; rw [m]

theorem takeE8_inv {bs k i rest} (h : takeE8 bs k = .ok i rest) : ∃ g e r, e.EaWf ∧ bs = encE8 g e ++ r ∧ k g e r = .ok i rest := by
  obtain ⟨g, e, r, a, b, c⟩ := takeE_inv h
  refine ⟨g, _, r, ?_, ?_, c⟩
  · cases e <;> exact a
  · rw [b]; cases e with
    | reg x => simp only [encE8, encE, Rm.map, Reg8.code_ofCode]
    | mem ea => cases ea <;> rfl

theorem takeE16_inv {bs k i rest} (h : takeE16 bs k = .ok i rest) : ∃ g e r, e.EaWf ∧ bs = encE16 g e ++ r ∧ k g e r = .ok i rest := by
  obtain ⟨g, e, r, a, b, c⟩ := takeE_inv h
  refine ⟨g, _, r, ?_, ?_, c⟩
  · cases e <;> exact a
  · rw [b]; cases e with
    | reg x => simp only [encE16, encE, Rm.map, Reg16.code_ofCode]
    | mem ea => cases ea <;> rfl

theorem Instr.wf_of {R : Type} {i : Instr} {e : Rm R} (h : e.EaWf) (a : i.ea? = e.ea?) (b : i.regOk = true) : i.wf = true := by
  unfold Instr.wf; rw [a, b]; simp
  cases he : e.ea? with
  | none => rfl
  | some ea => exact h ea he

/-! ## Readers always answer -/

/-- `f` answers on any list of at least `m` bytes, and takes at most `m` of them. -/
def Reads (m : Nat) (f : List Byte → DecodeResult) : Prop :=
  ∀ bs, m ≤ bs.length → ∃ i rest, f bs = .ok i rest ∧ rest.length ≤ bs.length ∧ bs.length ≤ rest.length + m

theorem Reads.mono {m n f} (h : Reads m f) (l : m ≤ n) : Reads n f := by
  intro bs b; obtain ⟨i, r, a, c, d⟩ := h bs (by omega); exact ⟨i, r, a, c, by omega⟩

theorem Reads.ok (i : Instr) : Reads 0 (fun bs => .ok i bs) := fun bs _ => ⟨i, bs, rfl, le_refl _, le_refl _⟩

theorem Reads.byte {m k} (h : ∀ b, Reads m (k b)) : Reads (m + 1) (fun bs => takeByte bs k) := by
  intro bs l
  cases bs with
  | nil => simp at l
  | cons b r => obtain ⟨i, q, a, c, d⟩ := h b r (by simp at l; omega); exact ⟨i, q, a, by simp; omega, by simp; omega⟩

theorem Reads.word {m k} (h : ∀ b, Reads m (k b)) : Reads (m + 2) (fun bs => takeWord bs k) :=
  Reads.byte (m := m + 1) fun _ => Reads.byte fun _ => h _

theorem Reads.e {m k} (h : ∀ g e, Reads m (k g e)) : Reads (m + 3) (fun bs => takeE bs k) := by
  apply Reads.byte (m := m + 2)
  intro b
  split
  · split
    · exact Reads.word fun d => h _ _
    · exact (h _ _).mono (by omega)
  · exact (Reads.byte fun d => h _ _).mono (by omega)
  · exact Reads.word fun d => h _ _
  · exact (h _ _).mono (by omega)

theorem Reads.e8 {m k} (h : ∀ g e, Reads m (k g e)) : Reads (m + 3) (fun bs => takeE8 bs k) := Reads.e fun g _ => h g _

theorem Reads.e16 {m k} (h : ∀ g e, Reads m (k g e)) : Reads (m + 3) (fun bs => takeE16 bs k) := Reads.e fun g _ => h g _

end Sys2Proof
end

