-- ==== Sys2Proof/Laws/Meanings.lean ====
section
/-!
SUPPORT. The shared operations of the meanings, and then every meaning, are calm (Calm.lean). The one exception is a repeated string instruction that a
reset stops, which leaves the reset state.
-/

namespace Sys2Proof.Machine

/-! ## Operand shapes -/

theorem Calm.read8 (s : State) (l : Loc Reg8) : Calm s (s.read8 l).2 := by
  cases l with
  | reg r => exact Calm.refl s
  | mem g o => exact Calm.rdB s g o

theorem Calm.read16 (s : State) (l : Loc Reg16) : Calm s (s.read16 l).2 := by
  cases l with
  | reg r => exact Calm.refl s
  | mem g o => exact Calm.rdW s g o

theorem Calm.write8 (s : State) (l : Loc Reg8) (v : Byte) : Calm s (s.write8 l v) := by
  cases l with
  | reg r => exact Calm.setReg8 s r v
  | mem g o => exact Calm.wrB s g o v

theorem Calm.write16 (s : State) (l : Loc Reg16) (v : Word) : Calm s (s.write16 l v) := by
  cases l with
  | reg r => exact Calm.setReg16 s r v
  | mem g o => exact Calm.wrW s g o v

theorem Calm.write8? (s : State) (l : Loc Reg8) (v : Option Byte) : Calm s (s.write8? l v) := by
  cases v with
  | none => exact Calm.refl s
  | some r => exact Calm.write8 s l r

theorem Calm.write16? (s : State) (l : Loc Reg16) (v : Option Word) : Calm s (s.write16? l v) := by
  cases v with
  | none => exact Calm.refl s
  | some r => exact Calm.write16 s l r

/-- An operation on one operand that is calm. -/
def Op1Calm {w : Nat} (f : Op1 w) : Prop := ∀ v s, Calm s (f v s).2

/-- An operation on two operands that is calm. -/
def Op2Calm {w : Nat} (f : Op2 w) : Prop := ∀ d v s, Calm s (f d v s).2

theorem Calm.unary8 (s : State) {f : Op1 8} (h : Op1Calm f) (e : Rm8) : Calm s (s.unary8 f e) :=
  ((Calm.read8 s _).trans (h _ _)).trans (Calm.write8? _ _ _)

theorem Calm.unary16 (s : State) {f : Op1 16} (h : Op1Calm f) (e : Rm16) : Calm s (s.unary16 f e) :=
  ((Calm.read16 s _).trans (h _ _)).trans (Calm.write16? _ _ _)

theorem Calm.binary8 (s : State) {f : Op2 8} (h : Op2Calm f) (e : Rm8) (v : Byte) : Calm s (s.binary8 f e v) := Calm.unary8 s (fun d t => h d v t) e

theorem Calm.binary16 (s : State) {f : Op2 16} (h : Op2Calm f) (e : Rm16) (v : Word) : Calm s (s.binary16 f e v) :=
  Calm.unary16 s (fun d t => h d v t) e

theorem Calm.toReg8 (s : State) {f : Op2 8} (h : Op2Calm f) (g : Reg8) (e : Rm8) : Calm s (s.toReg8 f g e) :=
  ((Calm.read8 s _).trans (h _ _ _)).trans (Calm.write8? _ _ _)

theorem Calm.toReg16 (s : State) {f : Op2 16} (h : Op2Calm f) (g : Reg16) (e : Rm16) : Calm s (s.toReg16 f g e) :=
  ((Calm.read16 s _).trans (h _ _ _)).trans (Calm.write16? _ _ _)

theorem Calm.rdFar (s : State) (g o : Word) : Calm s (s.rdFar g o).2.2 := (Calm.rdW s _ _).trans (Calm.rdW _ _ _)

/-! ## Arithmetic and logic -/

theorem op2Calm_aluAdd {w : Nat} : Op2Calm (aluAdd (w := w)) := fun _ _ s => Calm.addFlags s _ _ _
theorem op2Calm_aluAdc {w : Nat} : Op2Calm (aluAdc (w := w)) := fun _ _ s => Calm.addFlags s _ _ _
theorem op2Calm_aluSub {w : Nat} : Op2Calm (aluSub (w := w)) := fun _ _ s => Calm.subFlags s _ _ _
theorem op2Calm_aluSbb {w : Nat} : Op2Calm (aluSbb (w := w)) := fun _ _ s => Calm.subFlags s _ _ _
theorem op2Calm_aluCmp {w : Nat} : Op2Calm (aluCmp (w := w)) := fun _ _ s => Calm.subFlags s _ _ _
theorem op2Calm_aluAnd {w : Nat} : Op2Calm (aluAnd (w := w)) := fun _ _ s => Calm.logicFlags s _
theorem op2Calm_aluOr {w : Nat} : Op2Calm (aluOr (w := w)) := fun _ _ s => Calm.logicFlags s _
theorem op2Calm_aluXor {w : Nat} : Op2Calm (aluXor (w := w)) := fun _ _ s => Calm.logicFlags s _
theorem op2Calm_aluTest {w : Nat} : Op2Calm (aluTest (w := w)) := fun _ _ s => Calm.logicFlags s _
theorem op1Calm_aluInc {w : Nat} : Op1Calm (aluInc (w := w)) := fun _ s => (Calm.addFlags s _ _ _).trans (Calm.setFlag _ _ _)
theorem op1Calm_aluDec {w : Nat} : Op1Calm (aluDec (w := w)) := fun _ s => (Calm.subFlags s _ _ _).trans (Calm.setFlag _ _ _)
theorem op1Calm_aluNeg {w : Nat} : Op1Calm (aluNeg (w := w)) := fun _ s => Calm.subFlags s _ _ _
theorem op1Calm_aluNot {w : Nat} : Op1Calm (aluNot (w := w)) := fun _ s => Calm.refl s

theorem op1Calm_shiftBy {w : Nat} (op : ShiftOp) (n : Nat) : Op1Calm (shiftBy (w := w) op n) := by
  intro v s
  cases n with
  | zero => exact Calm.refl s
  | succ m =>
    simp only [shiftBy]
    generalize shiftSteps op m ⟨v, s.flag .cf⟩ = x
    have key : Calm s (if m = 0 then (s.setFlag .cf (shiftStep op x).cf).setFlag .ovf (shiftOf op x)
        else (s.setFlag .cf (shiftStep op x).cf).undefFlag .ovf (some (shiftOf op x))) := by
      split
      · exact (Calm.setFlag s _ _).trans (Calm.setFlag _ _ _)
      · exact (Calm.setFlag s _ _).trans (Calm.undefFlag _ _ _)
    split
    · exact (key.trans (Calm.szp _ _)).trans (Calm.undefFlag _ _ _)
    · exact key

theorem Calm.mulFlags (s : State) (b : Bool) : Calm s (s.mulFlags b) := ((Calm.setFlag s _ _).trans (Calm.setFlag _ _ _)).trans (Calm.undefList _ _)

theorem Calm.multiply8 (s : State) (p : Byte → Byte → Word) (w : Word → Bool) (e : Rm8) : Calm s (s.multiply8 p w e) :=
  ((Calm.read8 s _).trans (Calm.setReg16 _ _ _)).trans (Calm.mulFlags _ _)

theorem Calm.multiply16 (s : State) (p : Word → Word → BitVec 32) (w : BitVec 32 → Bool) (e : Rm16) : Calm s (s.multiply16 p w e) :=
  (((Calm.read16 s _).trans (Calm.setReg16 _ _ _)).trans (Calm.setReg16 _ _ _)).trans (Calm.mulFlags _ _)

theorem Calm.errorDestAx (s : State) : Calm s s.errorDestAx := by
  unfold State.errorDestAx; split
  · exact (Calm.drawWord s).trans (Calm.setReg16 _ _ _)
  · exact Calm.setReg16 s _ _

theorem Calm.errorDestDx (s : State) : Calm s s.errorDestDx := by
  unfold State.errorDestDx; split
  · exact (Calm.drawWord s).trans (Calm.setReg16 _ _ _)
  · exact Calm.setReg16 s _ _

theorem Calm.divideError8 (s : State) : Calm s s.divideError8 := ((Calm.errorDestAx s).trans (Calm.undefList _ _)).trans (Calm.raiseInternal _ _)

theorem Calm.divideError16 (s : State) : Calm s s.divideError16 :=
  (((Calm.errorDestAx s).trans (Calm.errorDestDx _)).trans (Calm.undefList _ _)).trans (Calm.raiseInternal _ _)

theorem Calm.divide8 (s : State) (q : Word → Byte → Option (Byte × Byte)) (e : Rm8) : Calm s (s.divide8 q e) := by
  unfold State.divide8
  simp only
  split
  · exact (Calm.read8 s _).trans (Calm.divideError8 _)
  · exact ((Calm.read8 s _).trans (Calm.setReg16 _ _ _)).trans (Calm.undefList _ _)

theorem Calm.divide16 (s : State) (q : BitVec 32 → Word → Option (Word × Word)) (e : Rm16) : Calm s (s.divide16 q e) := by
  unfold State.divide16
  simp only
  split
  · exact (Calm.read16 s _).trans (Calm.divideError16 _)
  · exact (((Calm.read16 s _).trans (Calm.setReg16 _ _ _)).trans (Calm.setReg16 _ _ _)).trans (Calm.undefList _ _)

theorem Calm.asciiAdjust (s : State) (f g : Byte → Byte) : Calm s (s.asciiAdjust f g) :=
  (((Calm.setReg16 s _ _).trans (Calm.setFlag _ _ _)).trans (Calm.setFlag _ _ _)).trans (Calm.undefList _ _)

theorem Calm.decimalAdd (s : State) : Calm s s.decimalAdd :=
  ((((Calm.setReg8 s _ _).trans (Calm.setFlag _ _ _)).trans (Calm.setFlag _ _ _)).trans (Calm.szp _ _)).trans (Calm.undefFlag _ _ _)

theorem Calm.decimalSub (s : State) : Calm s s.decimalSub :=
  ((((Calm.setReg8 s _ _).trans (Calm.setFlag _ _ _)).trans (Calm.setFlag _ _ _)).trans (Calm.szp _ _)).trans (Calm.undefFlag _ _ _)

theorem Calm.asciiMul (s : State) (n : Byte) : Calm s (s.asciiMul n) := by
  unfold State.asciiMul; split
  · exact Calm.divideError8 s
  · exact ((Calm.setReg16 s _ _).trans (Calm.szp _ _)).trans (Calm.undefList _ _)

theorem Calm.asciiDiv (s : State) (n : Byte) : Calm s (s.asciiDiv n) := ((Calm.setReg16 s _ _).trans (Calm.szp _ _)).trans (Calm.undefList _ _)

/-! ## Data transfer -/

theorem Calm.setShadow (s : State) : Calm s s.setShadow := Calm.ofEq rfl rfl rfl rfl rfl rfl rfl rfl rfl rfl

theorem Calm.load8 (s : State) (r : Reg8) (l : Loc Reg8) : Calm s (s.load8 r l) := (Calm.read8 s _).trans (Calm.setReg8 _ _ _)

theorem Calm.load16 (s : State) (r : Reg16) (l : Loc Reg16) : Calm s (s.load16 r l) := (Calm.read16 s _).trans (Calm.setReg16 _ _ _)

theorem Calm.movSeg (s : State) (r : SReg) (e : Rm16) : Calm s (s.movSeg r e) := ((Calm.read16 s _).trans (Calm.setSeg _ _ _)).trans (Calm.setShadow _)

theorem Calm.popSeg (s : State) (r : SReg) : Calm s (s.popSeg r) := ((Calm.pop s).trans (Calm.setSeg _ _ _)).trans (Calm.setShadow _)

theorem Calm.setCsNoFlush (s : State) (v : Word) : Calm s (s.setCsNoFlush v) := by
  unfold State.setCsNoFlush; simp only; split
  · exact (Calm.drawNat s).trans (Calm.setSeg _ .cs v)
  · exact ((Calm.drawNat s).trans (Calm.setSeg _ .cs v)).trans (Calm.ofEq rfl rfl rfl rfl rfl rfl rfl rfl rfl rfl)

theorem Calm.movCs (s : State) (e : Rm16) : Calm s (s.movCs e) := ((Calm.read16 s _).trans (Calm.setCsNoFlush _ _)).trans (Calm.setShadow _)

theorem Calm.popCs (s : State) : Calm s s.popCs := ((Calm.pop s).trans (Calm.setCsNoFlush _ _)).trans (Calm.setShadow _)

theorem Calm.pushValue (s : State) (e : Rm16) (v : Word) : Calm s (s.pushValue e v).2 := by
  unfold State.pushValue; split
  · exact Calm.drawBit s
  · exact Calm.refl s
  · exact Calm.refl s

theorem Calm.pushOperand (s : State) (e : Rm16) : Calm s (s.pushOperand e) := ((Calm.read16 s _).trans (Calm.pushValue _ _ _)).trans (Calm.push _ _)

theorem Calm.popOperand (s : State) (e : Rm16) : Calm s (s.popOperand e) := (Calm.pop s).trans (Calm.write16 _ _ _)

theorem Calm.exchange8 (s : State) (e : Rm8) (g : Reg8) : Calm s (s.exchange8 e g) :=
  ((Calm.read8 s _).trans (Calm.write8 _ _ _)).trans (Calm.setReg8 _ _ _)

theorem Calm.exchange16 (s : State) (e : Rm16) (g : Reg16) : Calm s (s.exchange16 e g) :=
  ((Calm.read16 s _).trans (Calm.write16 _ _ _)).trans (Calm.setReg16 _ _ _)

theorem Calm.inputByte (s : State) (p : Word) : Calm s (s.inputByte p) := (Calm.ioRdB s p).trans (Calm.setReg8 _ _ _)

theorem Calm.inputWord (s : State) (p : Word) : Calm s (s.inputWord p) := (Calm.ioRdW s p).trans (Calm.setReg16 _ _ _)

theorem Calm.loadFar (s : State) (r : SReg) (g : Reg16) (ea : Ea) : Calm s (s.loadFar r g ea) :=
  ((Calm.rdFar s _ _).trans (Calm.setReg16 _ _ _)).trans (Calm.setSeg _ _ _)

theorem Calm.setLowFlags (s : State) (v : Byte) : Calm s (s.setLowFlags v) :=
  ((((Calm.setFlag s _ _).trans (Calm.setFlag _ _ _)).trans (Calm.setFlag _ _ _)).trans (Calm.setFlag _ _ _)).trans (Calm.setFlag _ _ _)

/-! ## Control transfer and processor control -/

theorem Calm.call (s : State) (t : Word) : Calm s (s.call t) := (Calm.push s _).trans (Calm.jump _ _)

theorem Calm.callTo (s : State) (c t : Word) : Calm s (s.callTo c t) := ((Calm.push s _).trans (Calm.push _ _)).trans (Calm.farJump _ _ _)

theorem Calm.jumpOperand (s : State) (e : Rm16) : Calm s (s.jumpOperand e) := (Calm.read16 s _).trans (Calm.jump _ _)

theorem Calm.callOperand (s : State) (e : Rm16) : Calm s (s.callOperand e) := (Calm.read16 s _).trans (Calm.call _ _)

theorem Calm.jumpFar (s : State) (ea : Ea) : Calm s (s.jumpFar ea) := (Calm.rdFar s _ _).trans (Calm.farJump _ _ _)

theorem Calm.callFar (s : State) (ea : Ea) : Calm s (s.callFar ea) := (Calm.rdFar s _ _).trans (Calm.callTo _ _ _)

theorem Calm.retNear (s : State) (n : Word) : Calm s (s.retNear n) := ((Calm.pop s).trans (Calm.setReg16 _ _ _)).trans (Calm.jump _ _)

theorem Calm.retFar (s : State) (n : Word) : Calm s (s.retFar n) :=
  Calm.popFarTarget (Calm.setReg16 _ _ _)

theorem Calm.branch (s : State) (b : Bool) (d : Byte) : Calm s (s.branch b d) := by
  unfold State.branch
  simp only
  split
  · exact (Calm.noteBranch s b).trans (Calm.jump _ _)
  · exact Calm.noteBranch s b

theorem Calm.loop (s : State) (c : Bool) (d : Byte) : Calm s (s.loop c d) := (Calm.setReg16 s _ _).trans (Calm.branch _ _ _)

theorem Calm.delayIntr (s : State) : Calm s s.delayIntr := by
  unfold State.delayIntr; split
  · exact Calm.ofEq rfl rfl rfl rfl rfl rfl rfl rfl rfl rfl
  · exact Calm.refl s

theorem Calm.halt (s : State) : Calm s s.halt := (Calm.busWrite s _ _ _).trans (Calm.ofEq rfl rfl rfl rfl rfl rfl rfl rfl rfl rfl)

theorem Calm.startWait (s : State) : Calm s s.startWait := by
  unfold State.startWait; split
  · exact Calm.refl s
  · exact Calm.ofEq rfl rfl rfl rfl rfl rfl rfl rfl rfl rfl

theorem Calm.escape (s : State) (n : BitVec 6) (e : Rm16) : Calm s (s.escape n e) := by
  cases e with
  | reg r => exact Calm.refl s
  | mem ea =>
    have key : ∀ (l : List Word) (t : State), Calm t (l.foldl (fun t d => (t.rdB (s.operandSeg (defaultSeg ea)) (s.eaOffset ea + d)).2) t) := by
      intro l
      induction l with
      | nil => exact Calm.refl
      | cons d l ih => exact fun t => (Calm.rdB t _ _).trans (ih _)
    exact key _ s

theorem Calm.notePrefix (s : State) (p : Pfx) : Calm s (s.notePrefix p) := Calm.ofEq rfl rfl rfl rfl rfl rfl rfl rfl rfl rfl

theorem Calm.minusOneFlags (s : State) : Calm s s.minusOneFlags :=
  (((((Calm.setFlag s _ _).trans (Calm.setFlag _ _ _)).trans (Calm.setFlag _ _ _)).trans (Calm.setFlag _ _ _)).trans (Calm.setFlag _ _ _)).trans
    (Calm.setFlag _ _ _)

theorem Calm.minusOne8 (s : State) (e : Rm8) : Calm s (s.minusOne8 e) := (Calm.write8 s _ _).trans (Calm.minusOneFlags _)

theorem Calm.minusOne16 (s : State) (e : Rm16) : Calm s (s.minusOne16 e) := (Calm.write16 s _ _).trans (Calm.minusOneFlags _)

/-! ## Strings -/

theorem Calm.advanceSi (s : State) (w : Width) : Calm s (s.advanceSi w) := Calm.setReg16 s _ _

theorem Calm.advanceDi (s : State) (w : Width) : Calm s (s.advanceDi w) := Calm.setReg16 s _ _

theorem Calm.movs (w : Width) (s : State) : Calm s (State.movs w s) := by
  cases w
  · exact (((Calm.rdB s _ _).trans (Calm.wrB _ _ _ _)).trans (Calm.advanceSi _ _)).trans (Calm.advanceDi _ _)
  · exact (((Calm.rdW s _ _).trans (Calm.wrW _ _ _ _)).trans (Calm.advanceSi _ _)).trans (Calm.advanceDi _ _)

theorem Calm.cmps (w : Width) (s : State) : Calm s (State.cmps w s) := by
  cases w
  · exact ((((Calm.rdB s _ _).trans (Calm.rdB _ _ _)).trans (Calm.subFlags _ _ _ _)).trans (Calm.advanceSi _ _)).trans (Calm.advanceDi _ _)
  · exact ((((Calm.rdW s _ _).trans (Calm.rdW _ _ _)).trans (Calm.subFlags _ _ _ _)).trans (Calm.advanceSi _ _)).trans (Calm.advanceDi _ _)

theorem Calm.scas (w : Width) (s : State) : Calm s (State.scas w s) := by
  cases w
  · exact ((Calm.rdB s _ _).trans (Calm.subFlags _ _ _ _)).trans (Calm.advanceDi _ _)
  · exact ((Calm.rdW s _ _).trans (Calm.subFlags _ _ _ _)).trans (Calm.advanceDi _ _)

theorem Calm.lods (w : Width) (s : State) : Calm s (State.lods w s) := by
  cases w
  · exact ((Calm.rdB s _ _).trans (Calm.setReg8 _ _ _)).trans (Calm.advanceSi _ _)
  · exact ((Calm.rdW s _ _).trans (Calm.setReg16 _ _ _)).trans (Calm.advanceSi _ _)

theorem Calm.stos (w : Width) (s : State) : Calm s (State.stos w s) := by
  cases w
  · exact (Calm.wrB s _ _ _).trans (Calm.advanceDi _ _)
  · exact (Calm.wrW s _ _ _).trans (Calm.advanceDi _ _)

/-! ## Recognition points -/

theorem Calm.applyInput (s : State) (h : HostInput) : Calm s (s.applyInput h) := Calm.ofEq rfl rfl rfl rfl rfl rfl rfl rfl rfl rfl

theorem Calm.sampleInputs (s : State) : Calm s s.sampleInputs := by
  unfold State.sampleInputs; split
  · exact Calm.ofEq rfl rfl rfl rfl rfl rfl rfl rfl rfl rfl
  · exact Calm.ofEq rfl rfl rfl rfl rfl rfl rfl rfl rfl rfl

theorem Calm.dmaCycle (s : State) (r : Option DmaReq) : Calm s (s.dmaCycle r) := by
  unfold State.dmaCycle; split
  · exact Calm.refl s
  · split
    · exact Calm.directRead s _ _
    · exact (Calm.drawBusByte s).trans (Calm.directWrite _ _ _ _)

theorem Calm.refreshCycle (s : State) (r : Option PAddr) : Calm s (s.refreshCycle r) := by
  cases r
  · exact Calm.refl s
  · exact Calm.directRead s _ _

theorem Calm.serveChannels (s : State) : Calm s s.serveChannels := by
  have key : ∀ (l : List Nat) (t : State), Calm t (l.foldl (fun u ch => (u.dmaCycle (s.hostDma ch)).dmaCycle (s.stubDma ch)) t) := by
    intro l
    induction l with
    | nil => exact Calm.refl
    | cons r l ih => exact fun t => ((Calm.dmaCycle t _).trans (Calm.dmaCycle _ _)).trans (ih _)
  exact (key _ s).trans (Calm.ofEq rfl rfl rfl rfl rfl rfl rfl rfl rfl rfl)

theorem Calm.serveRefresh (s : State) : Calm s s.serveRefresh :=
  ((Calm.refreshCycle s _).trans (Calm.refreshCycle _ _)).trans (Calm.ofEq rfl rfl rfl rfl rfl rfl rfl rfl rfl rfl)

theorem Calm.serveKind (s : State) (k : ReqKind) : Calm s (s.serveKind k) := by
  cases k
  · exact Calm.refl s
  · exact Calm.refl s
  · exact Calm.serveChannels s
  · exact Calm.serveRefresh s

/-- What DMA and refresh at a recognition point can change: nothing that Calm keeps. -/
theorem Calm.serveDma (s : State) : Calm s s.serveDma := by
  have key : ∀ (l : List ReqKind) (t : State), Calm t (l.foldl State.serveKind t) := by
    intro l
    induction l with
    | nil => exact Calm.refl
    | cons k l ih => exact fun t => (Calm.serveKind t k).trans (ih _)
  unfold State.serveDma; split
  · exact Calm.refl s
  · exact key _ s

theorem Calm.poll (s : State) : Calm s s.poll.2 := by
  unfold State.poll
  split
  · have k := Calm.portTake s .poll
    rcases h : s.portTake .poll with ⟨x, t⟩
    rw [h] at k
    split <;> rename_i e <;> cases e <;> exact k
  · exact (Calm.sampleInputs s).trans (Calm.serveDma _)

theorem Calm.takeEvent (s : State) (ev : Event) (sip : Word) : Calm s (s.takeEvent ev sip) :=
  (Calm.acceptEvent s ev).trans (Calm.ofEq rfl rfl rfl rfl rfl rfl rfl rfl rfl rfl)

theorem Calm.endBoundary (s : State) : Calm s s.endBoundary := Calm.ofEq rfl rfl rfl rfl rfl rfl rfl rfl rfl rfl

theorem Calm.interruptRep (s : State) (ev : Event) : Calm s (s.interruptRep ev) := Calm.takeEvent s ev _

/-- Calm, or, at the instruction level, the state after a reset that stopped a repeated string instruction. -/
def CalmOrReset (s t : State) : Prop :=
  Calm s t ∨ (s.port.replay = false ∧ ∃ u, Calm s u ∧ t = { u.applyReset with entered := .abandoned })

theorem CalmOrReset.after {s t u : State} (h : Calm s t) (k : CalmOrReset t u) : CalmOrReset s u := by
  rcases k with k | ⟨p, v, k, e⟩
  · exact Or.inl (h.trans k)
  · exact Or.inr ⟨h.replay ▸ p, v, h.trans k, e⟩

theorem State.repLoop_calm {f : State → State} (hf : ∀ s, Calm s (f s)) (c : Bool) (r : Rep) (n : Nat) (s : State) :
    CalmOrReset s (State.repLoop c f r n s) := by
  induction n generalizing s with
  | zero => exact Or.inl (Calm.refl s)
  | succ n ih =>
    have h := (hf s).trans (Calm.setReg16 (f s) .cx ((f s).reg16 .cx - 1))
    simp only [State.repLoop]
    split
    · exact Or.inl h
    · have p := Calm.poll ((f s).setReg16 .cx ((f s).reg16 .cx - 1))
      split <;> rename_i s3 e <;> rw [e] at p <;> have h3 := h.trans p
      · exact CalmOrReset.after h3 (ih _)
      · unfold State.stopRep
        split
        · exact Or.inl h3
        · rename_i d
          have d : s3.port.replay = false := by simpa using d
          exact Or.inr ⟨h3.replay ▸ d, s3, h3, rfl⟩
      · exact Or.inl (h3.trans (Calm.interruptRep _ _))

theorem State.stringOp_calm {f : State → State} (hf : ∀ s, Calm s (f s)) (c : Bool) (s : State) : CalmOrReset s (s.stringOp c f) := by
  unfold State.stringOp; split
  · exact Or.inl (hf s)
  · exact State.repLoop_calm hf _ _ _ _

/-! ## Every meaning -/

/-- Every next state of a meaning is calm, or a reset's, and no meaning faults. -/
def CalmRes (s : State) (r : Res) : Prop := (∀ t, r = .next t → CalmOrReset s t) ∧ ∀ f, r ≠ .fault f

theorem CalmRes.next {s t : State} (h : Calm s t) : CalmRes s (.next t) := ⟨fun u e => by cases e; exact Or.inl h, fun f e => by cases e⟩

theorem CalmRes.string {s t : State} (h : CalmOrReset s t) : CalmRes s (.next t) := ⟨fun u e => by cases e; exact h, fun f e => by cases e⟩

theorem CalmRes.refused (s : State) (x : Refusal) : CalmRes s (.refused x) := ⟨fun u e => (by cases e), fun f e => (by cases e)⟩

theorem CalmRes.undocumented {s : State} {r : Res} (h : CalmRes s r) : CalmRes s (undocumented s r) := by
  unfold Machine.undocumented; split
  · exact CalmRes.refused s _
  · exact h

theorem CalmRes.documentedMain {s : State} {r : Res} (v : Enc) (h : CalmRes s r) : CalmRes s (documentedMain v s r) := by
  cases v
  · exact h
  · exact CalmRes.undocumented h

theorem CalmRes.documentedZero {s : State} {r : Res} (v : BitVec 3) (h : CalmRes s r) : CalmRes s (documentedZero v s r) := by
  unfold Machine.documentedZero; split
  · exact h
  · exact CalmRes.undocumented h

theorem CalmRes.memoryOnly {s : State} {k : Ea → Res} (e : Rm16) (h : ∀ ea, CalmRes s (k ea)) : CalmRes s (memoryOnly e s k) := by
  cases e with
  | reg r => exact CalmRes.undocumented (CalmRes.refused s _)
  | mem ea => exact h ea

theorem CalmRes.repRefused {s : State} {r : Res} (h : CalmRes s r) : CalmRes s (repRefused s r) := by
  unfold Machine.repRefused; split
  · exact CalmRes.undocumented (CalmRes.refused s _)
  · exact h


/-- Every next state of exec is calm, or a reset's, and exec never faults. -/
theorem exec_calm (i : Instr) (s : State) : CalmRes s (exec i s) := by
  cases i with
  | addEbGb e g => exact CalmRes.next (Calm.binary8 s op2Calm_aluAdd _ _)
  | addEvGv e g => exact CalmRes.next (Calm.binary16 s op2Calm_aluAdd _ _)
  | addGbEb g e => exact CalmRes.next (Calm.toReg8 s op2Calm_aluAdd _ _)
  | addGvEv g e => exact CalmRes.next (Calm.toReg16 s op2Calm_aluAdd _ _)
  | addALIb imm => exact CalmRes.next (Calm.binary8 s op2Calm_aluAdd _ _)
  | addAXIv imm => exact CalmRes.next (Calm.binary16 s op2Calm_aluAdd _ _)
  | pushSreg sr => exact CalmRes.next (Calm.push s _)
  | popSreg sr => 
    cases sr
    case cs => exact CalmRes.undocumented (CalmRes.next (Calm.popCs s))
    all_goals exact CalmRes.next (Calm.popSeg s _)
  | orEbGb e g => exact CalmRes.next (Calm.binary8 s op2Calm_aluOr _ _)
  | orEvGv e g => exact CalmRes.next (Calm.binary16 s op2Calm_aluOr _ _)
  | orGbEb g e => exact CalmRes.next (Calm.toReg8 s op2Calm_aluOr _ _)
  | orGvEv g e => exact CalmRes.next (Calm.toReg16 s op2Calm_aluOr _ _)
  | orALIb imm => exact CalmRes.next (Calm.binary8 s op2Calm_aluOr _ _)
  | orAXIv imm => exact CalmRes.next (Calm.binary16 s op2Calm_aluOr _ _)
  | adcEbGb e g => exact CalmRes.next (Calm.binary8 s op2Calm_aluAdc _ _)
  | adcEvGv e g => exact CalmRes.next (Calm.binary16 s op2Calm_aluAdc _ _)
  | adcGbEb g e => exact CalmRes.next (Calm.toReg8 s op2Calm_aluAdc _ _)
  | adcGvEv g e => exact CalmRes.next (Calm.toReg16 s op2Calm_aluAdc _ _)
  | adcALIb imm => exact CalmRes.next (Calm.binary8 s op2Calm_aluAdc _ _)
  | adcAXIv imm => exact CalmRes.next (Calm.binary16 s op2Calm_aluAdc _ _)
  | sbbEbGb e g => exact CalmRes.next (Calm.binary8 s op2Calm_aluSbb _ _)
  | sbbEvGv e g => exact CalmRes.next (Calm.binary16 s op2Calm_aluSbb _ _)
  | sbbGbEb g e => exact CalmRes.next (Calm.toReg8 s op2Calm_aluSbb _ _)
  | sbbGvEv g e => exact CalmRes.next (Calm.toReg16 s op2Calm_aluSbb _ _)
  | sbbALIb imm => exact CalmRes.next (Calm.binary8 s op2Calm_aluSbb _ _)
  | sbbAXIv imm => exact CalmRes.next (Calm.binary16 s op2Calm_aluSbb _ _)
  | andEbGb e g => exact CalmRes.next (Calm.binary8 s op2Calm_aluAnd _ _)
  | andEvGv e g => exact CalmRes.next (Calm.binary16 s op2Calm_aluAnd _ _)
  | andGbEb g e => exact CalmRes.next (Calm.toReg8 s op2Calm_aluAnd _ _)
  | andGvEv g e => exact CalmRes.next (Calm.toReg16 s op2Calm_aluAnd _ _)
  | andALIb imm => exact CalmRes.next (Calm.binary8 s op2Calm_aluAnd _ _)
  | andAXIv imm => exact CalmRes.next (Calm.binary16 s op2Calm_aluAnd _ _)
  | segES => exact CalmRes.next (Calm.notePrefix s _)
  | daa => exact CalmRes.next (Calm.decimalAdd s)
  | subEbGb e g => exact CalmRes.next (Calm.binary8 s op2Calm_aluSub _ _)
  | subEvGv e g => exact CalmRes.next (Calm.binary16 s op2Calm_aluSub _ _)
  | subGbEb g e => exact CalmRes.next (Calm.toReg8 s op2Calm_aluSub _ _)
  | subGvEv g e => exact CalmRes.next (Calm.toReg16 s op2Calm_aluSub _ _)
  | subALIb imm => exact CalmRes.next (Calm.binary8 s op2Calm_aluSub _ _)
  | subAXIv imm => exact CalmRes.next (Calm.binary16 s op2Calm_aluSub _ _)
  | segCS => exact CalmRes.next (Calm.notePrefix s _)
  | das => exact CalmRes.next (Calm.decimalSub s)
  | xorEbGb e g => exact CalmRes.next (Calm.binary8 s op2Calm_aluXor _ _)
  | xorEvGv e g => exact CalmRes.next (Calm.binary16 s op2Calm_aluXor _ _)
  | xorGbEb g e => exact CalmRes.next (Calm.toReg8 s op2Calm_aluXor _ _)
  | xorGvEv g e => exact CalmRes.next (Calm.toReg16 s op2Calm_aluXor _ _)
  | xorALIb imm => exact CalmRes.next (Calm.binary8 s op2Calm_aluXor _ _)
  | xorAXIv imm => exact CalmRes.next (Calm.binary16 s op2Calm_aluXor _ _)
  | segSS => exact CalmRes.next (Calm.notePrefix s _)
  | aaa => exact CalmRes.next (Calm.asciiAdjust s _ _)
  | cmpEbGb e g => exact CalmRes.next (Calm.binary8 s op2Calm_aluCmp _ _)
  | cmpEvGv e g => exact CalmRes.next (Calm.binary16 s op2Calm_aluCmp _ _)
  | cmpGbEb g e => exact CalmRes.next (Calm.toReg8 s op2Calm_aluCmp _ _)
  | cmpGvEv g e => exact CalmRes.next (Calm.toReg16 s op2Calm_aluCmp _ _)
  | cmpALIb imm => exact CalmRes.next (Calm.binary8 s op2Calm_aluCmp _ _)
  | cmpAXIv imm => exact CalmRes.next (Calm.binary16 s op2Calm_aluCmp _ _)
  | segDS => exact CalmRes.next (Calm.notePrefix s _)
  | aas => exact CalmRes.next (Calm.asciiAdjust s _ _)
  | incReg r => exact CalmRes.next (Calm.unary16 s op1Calm_aluInc _)
  | decReg r => exact CalmRes.next (Calm.unary16 s op1Calm_aluDec _)
  | pushReg r => cases r <;> exact CalmRes.next (Calm.push s _)
  | popReg r => exact CalmRes.next ((Calm.pop s).trans (Calm.setReg16 _ _ _))
  | joJb v disp => exact CalmRes.documentedMain _ (CalmRes.next (Calm.branch s _ _))
  | jnoJb v disp => exact CalmRes.documentedMain _ (CalmRes.next (Calm.branch s _ _))
  | jbJb v disp => exact CalmRes.documentedMain _ (CalmRes.next (Calm.branch s _ _))
  | jnbJb v disp => exact CalmRes.documentedMain _ (CalmRes.next (Calm.branch s _ _))
  | jzJb v disp => exact CalmRes.documentedMain _ (CalmRes.next (Calm.branch s _ _))
  | jnzJb v disp => exact CalmRes.documentedMain _ (CalmRes.next (Calm.branch s _ _))
  | jbeJb v disp => exact CalmRes.documentedMain _ (CalmRes.next (Calm.branch s _ _))
  | jnbeJb v disp => exact CalmRes.documentedMain _ (CalmRes.next (Calm.branch s _ _))
  | jsJb v disp => exact CalmRes.documentedMain _ (CalmRes.next (Calm.branch s _ _))
  | jnsJb v disp => exact CalmRes.documentedMain _ (CalmRes.next (Calm.branch s _ _))
  | jpJb v disp => exact CalmRes.documentedMain _ (CalmRes.next (Calm.branch s _ _))
  | jnpJb v disp => exact CalmRes.documentedMain _ (CalmRes.next (Calm.branch s _ _))
  | jlJb v disp => exact CalmRes.documentedMain _ (CalmRes.next (Calm.branch s _ _))
  | jnlJb v disp => exact CalmRes.documentedMain _ (CalmRes.next (Calm.branch s _ _))
  | jleJb v disp => exact CalmRes.documentedMain _ (CalmRes.next (Calm.branch s _ _))
  | jnleJb v disp => exact CalmRes.documentedMain _ (CalmRes.next (Calm.branch s _ _))
  | addEbIb v e imm => exact CalmRes.next (Calm.binary8 s op2Calm_aluAdd _ _)
  | orEbIb v e imm => exact CalmRes.next (Calm.binary8 s op2Calm_aluOr _ _)
  | adcEbIb v e imm => exact CalmRes.next (Calm.binary8 s op2Calm_aluAdc _ _)
  | sbbEbIb v e imm => exact CalmRes.next (Calm.binary8 s op2Calm_aluSbb _ _)
  | andEbIb v e imm => exact CalmRes.next (Calm.binary8 s op2Calm_aluAnd _ _)
  | subEbIb v e imm => exact CalmRes.next (Calm.binary8 s op2Calm_aluSub _ _)
  | xorEbIb v e imm => exact CalmRes.next (Calm.binary8 s op2Calm_aluXor _ _)
  | cmpEbIb v e imm => exact CalmRes.next (Calm.binary8 s op2Calm_aluCmp _ _)
  | addEvIv e imm => exact CalmRes.next (Calm.binary16 s op2Calm_aluAdd _ _)
  | orEvIv e imm => exact CalmRes.next (Calm.binary16 s op2Calm_aluOr _ _)
  | adcEvIv e imm => exact CalmRes.next (Calm.binary16 s op2Calm_aluAdc _ _)
  | sbbEvIv e imm => exact CalmRes.next (Calm.binary16 s op2Calm_aluSbb _ _)
  | andEvIv e imm => exact CalmRes.next (Calm.binary16 s op2Calm_aluAnd _ _)
  | subEvIv e imm => exact CalmRes.next (Calm.binary16 s op2Calm_aluSub _ _)
  | xorEvIv e imm => exact CalmRes.next (Calm.binary16 s op2Calm_aluXor _ _)
  | cmpEvIv e imm => exact CalmRes.next (Calm.binary16 s op2Calm_aluCmp _ _)
  | addEvIb e imm => exact CalmRes.next (Calm.binary16 s op2Calm_aluAdd _ _)
  | orEvIb e imm => exact CalmRes.next (Calm.binary16 s op2Calm_aluOr _ _)
  | adcEvIb e imm => exact CalmRes.next (Calm.binary16 s op2Calm_aluAdc _ _)
  | sbbEvIb e imm => exact CalmRes.next (Calm.binary16 s op2Calm_aluSbb _ _)
  | andEvIb e imm => exact CalmRes.next (Calm.binary16 s op2Calm_aluAnd _ _)
  | subEvIb e imm => exact CalmRes.next (Calm.binary16 s op2Calm_aluSub _ _)
  | xorEvIb e imm => exact CalmRes.next (Calm.binary16 s op2Calm_aluXor _ _)
  | cmpEvIb e imm => exact CalmRes.next (Calm.binary16 s op2Calm_aluCmp _ _)
  | testEbGb e g => exact CalmRes.next (Calm.binary8 s op2Calm_aluTest _ _)
  | testEvGv e g => exact CalmRes.next (Calm.binary16 s op2Calm_aluTest _ _)
  | xchgEbGb e g => exact CalmRes.next (Calm.exchange8 s _ _)
  | xchgEvGv e g => exact CalmRes.next (Calm.exchange16 s _ _)
  | movEbGb e g => exact CalmRes.next (Calm.write8 s _ _)
  | movEvGv e g => exact CalmRes.next (Calm.write16 s _ _)
  | movGbEb g e => exact CalmRes.next (Calm.load8 s _ _)
  | movGvEv g e => exact CalmRes.next (Calm.load16 s _ _)
  | movEwSw v sr e => exact CalmRes.documentedMain _ (CalmRes.next (Calm.write16 s _ _))
  | leaGvM g e => exact CalmRes.memoryOnly _ fun ea => CalmRes.next (Calm.setReg16 s _ _)
  | movSwEw v sr e => 
    cases sr
    case cs => exact CalmRes.undocumented (CalmRes.next (Calm.movCs s _))
    all_goals exact CalmRes.documentedMain _ (CalmRes.next (Calm.movSeg s _ _))
  | popEv reg e => exact CalmRes.documentedZero _ (CalmRes.next (Calm.popOperand s _))
  | nop => exact CalmRes.next (Calm.refl s)
  | xchgAX r => exact CalmRes.next ((Calm.setReg16 s _ _).trans (Calm.setReg16 _ _ _))
  | cbw => exact CalmRes.next (Calm.setReg16 s _ _)
  | cwd => exact CalmRes.next (Calm.setReg16 s _ _)
  | callAp off sel => exact CalmRes.next (Calm.callTo s _ _)
  | wait => exact CalmRes.next (Calm.startWait s)
  | pushf => exact CalmRes.next (Calm.push s _)
  | popf => exact CalmRes.next ((Calm.pop s).trans (Calm.setFlags _ _))
  | sahf => exact CalmRes.next (Calm.setLowFlags s _)
  | lahf => exact CalmRes.next (Calm.setReg8 s _ _)
  | movALOb off => exact CalmRes.next (Calm.load8 s _ _)
  | movAXOv off => exact CalmRes.next (Calm.load16 s _ _)
  | movObAL off => exact CalmRes.next (Calm.wrB s _ _ _)
  | movOvAX off => exact CalmRes.next (Calm.wrW s _ _ _)
  | movsb => exact CalmRes.string (State.stringOp_calm (Calm.movs _) _ s)
  | movsw => exact CalmRes.string (State.stringOp_calm (Calm.movs _) _ s)
  | cmpsb => exact CalmRes.string (State.stringOp_calm (Calm.cmps _) _ s)
  | cmpsw => exact CalmRes.string (State.stringOp_calm (Calm.cmps _) _ s)
  | testALIb imm => exact CalmRes.next (Calm.binary8 s op2Calm_aluTest _ _)
  | testAXIv imm => exact CalmRes.next (Calm.binary16 s op2Calm_aluTest _ _)
  | stosb => exact CalmRes.string (State.stringOp_calm (Calm.stos _) _ s)
  | stosw => exact CalmRes.string (State.stringOp_calm (Calm.stos _) _ s)
  | lodsb => exact CalmRes.string (State.stringOp_calm (Calm.lods _) _ s)
  | lodsw => exact CalmRes.string (State.stringOp_calm (Calm.lods _) _ s)
  | scasb => exact CalmRes.string (State.stringOp_calm (Calm.scas _) _ s)
  | scasw => exact CalmRes.string (State.stringOp_calm (Calm.scas _) _ s)
  | movRegIb r imm => exact CalmRes.next (Calm.setReg8 s _ _)
  | movRegIv r imm => exact CalmRes.next (Calm.setReg16 s _ _)
  | retIw v n => exact CalmRes.documentedMain _ (CalmRes.next (Calm.retNear s _))
  | ret v => exact CalmRes.documentedMain _ (CalmRes.next (Calm.retNear s _))
  | lesGvMp g e => exact CalmRes.memoryOnly _ fun ea => CalmRes.next (Calm.loadFar s _ _ _)
  | ldsGvMp g e => exact CalmRes.memoryOnly _ fun ea => CalmRes.next (Calm.loadFar s _ _ _)
  | movEbIb reg e imm => exact CalmRes.documentedZero _ (CalmRes.next (Calm.write8 s _ _))
  | movEvIv reg e imm => exact CalmRes.documentedZero _ (CalmRes.next (Calm.write16 s _ _))
  | retfIw v n => exact CalmRes.documentedMain _ (CalmRes.next (Calm.retFar s _))
  | retf v => exact CalmRes.documentedMain _ (CalmRes.next (Calm.retFar s _))
  | int3 => exact CalmRes.next (Calm.raiseInternal s _)
  | intIb n => exact CalmRes.next (Calm.raiseInternal s _)
  | into => 
    refine CalmRes.next ?_
    split
    · exact (Calm.noteBranch s _).trans (Calm.raiseInternal _ _)
    · exact Calm.noteBranch s _
  | iret => exact CalmRes.next (Calm.iret s)
  | rolEb c e => exact CalmRes.next (Calm.unary8 s (op1Calm_shiftBy _ _) _)
  | rorEb c e => exact CalmRes.next (Calm.unary8 s (op1Calm_shiftBy _ _) _)
  | rclEb c e => exact CalmRes.next (Calm.unary8 s (op1Calm_shiftBy _ _) _)
  | rcrEb c e => exact CalmRes.next (Calm.unary8 s (op1Calm_shiftBy _ _) _)
  | shlEb c e => exact CalmRes.next (Calm.unary8 s (op1Calm_shiftBy _ _) _)
  | shrEb c e => exact CalmRes.next (Calm.unary8 s (op1Calm_shiftBy _ _) _)
  | setmoEb e => exact CalmRes.undocumented (CalmRes.next (Calm.minusOne8 s _))
  | sarEb c e => exact CalmRes.next (Calm.unary8 s (op1Calm_shiftBy _ _) _)
  | rolEv c e => exact CalmRes.next (Calm.unary16 s (op1Calm_shiftBy _ _) _)
  | rorEv c e => exact CalmRes.next (Calm.unary16 s (op1Calm_shiftBy _ _) _)
  | rclEv c e => exact CalmRes.next (Calm.unary16 s (op1Calm_shiftBy _ _) _)
  | rcrEv c e => exact CalmRes.next (Calm.unary16 s (op1Calm_shiftBy _ _) _)
  | shlEv c e => exact CalmRes.next (Calm.unary16 s (op1Calm_shiftBy _ _) _)
  | shrEv c e => exact CalmRes.next (Calm.unary16 s (op1Calm_shiftBy _ _) _)
  | setmoEv e => exact CalmRes.undocumented (CalmRes.next (Calm.minusOne16 s _))
  | sarEv c e => exact CalmRes.next (Calm.unary16 s (op1Calm_shiftBy _ _) _)
  | setmocEb e => 
    refine CalmRes.undocumented (CalmRes.next ?_)
    split
    · exact Calm.refl s
    · exact Calm.minusOne8 s _
  | setmocEv e => 
    refine CalmRes.undocumented (CalmRes.next ?_)
    split
    · exact Calm.refl s
    · exact Calm.minusOne16 s _
  | aam n => exact CalmRes.next (Calm.asciiMul s _)
  | aad n => exact CalmRes.next (Calm.asciiDiv s _)
  | salc => exact CalmRes.undocumented (CalmRes.next (Calm.setReg8 s _ _))
  | xlat => exact CalmRes.next (Calm.load8 s _ _)
  | esc n e => exact CalmRes.next (Calm.escape s _ _)
  | loopneJb disp => exact CalmRes.next (Calm.loop s _ _)
  | loopeJb disp => exact CalmRes.next (Calm.loop s _ _)
  | loopJb disp => exact CalmRes.next (Calm.loop s _ _)
  | jcxzJb disp => exact CalmRes.next (Calm.branch s _ _)
  | inALIb port => exact CalmRes.next (Calm.inputByte s _)
  | inAXIb port => exact CalmRes.next (Calm.inputWord s _)
  | outIbAL port => exact CalmRes.next (Calm.ioWrB s _ _)
  | outIbAX port => exact CalmRes.next (Calm.ioWrW s _ _)
  | callJv disp => exact CalmRes.next (Calm.call s _)
  | jmpJv disp => exact CalmRes.next (Calm.jump s _)
  | jmpAp off sel => exact CalmRes.next (Calm.farJump s _ _)
  | jmpJb disp => exact CalmRes.next (Calm.jump s _)
  | inALDX => exact CalmRes.next (Calm.inputByte s _)
  | inAXDX => exact CalmRes.next (Calm.inputWord s _)
  | outDXAL => exact CalmRes.next (Calm.ioWrB s _ _)
  | outDXAX => exact CalmRes.next (Calm.ioWrW s _ _)
  | lock v => exact CalmRes.documentedMain _ (CalmRes.next (Calm.notePrefix s _))
  | repne => exact CalmRes.next (Calm.notePrefix s _)
  | rep => exact CalmRes.next (Calm.notePrefix s _)
  | hlt => exact CalmRes.next (Calm.halt s)
  | cmc => exact CalmRes.next (Calm.setFlag s _ _)
  | testEbIb v e imm => exact CalmRes.documentedMain _ (CalmRes.next (Calm.binary8 s op2Calm_aluTest _ _))
  | notEb e => exact CalmRes.next (Calm.unary8 s op1Calm_aluNot _)
  | negEb e => exact CalmRes.next (Calm.unary8 s op1Calm_aluNeg _)
  | mulEb e => exact CalmRes.next (Calm.multiply8 s _ _ _)
  | imulEb e => exact CalmRes.repRefused (CalmRes.next (Calm.multiply8 s _ _ _))
  | divEb e => exact CalmRes.next (Calm.divide8 s _ _)
  | idivEb e => exact CalmRes.repRefused (CalmRes.next (Calm.divide8 s _ _))
  | testEvIv v e imm => exact CalmRes.documentedMain _ (CalmRes.next (Calm.binary16 s op2Calm_aluTest _ _))
  | notEv e => exact CalmRes.next (Calm.unary16 s op1Calm_aluNot _)
  | negEv e => exact CalmRes.next (Calm.unary16 s op1Calm_aluNeg _)
  | mulEv e => exact CalmRes.next (Calm.multiply16 s _ _ _)
  | imulEv e => exact CalmRes.repRefused (CalmRes.next (Calm.multiply16 s _ _ _))
  | divEv e => exact CalmRes.next (Calm.divide16 s _ _)
  | idivEv e => exact CalmRes.repRefused (CalmRes.next (Calm.divide16 s _ _))
  | clc => exact CalmRes.next (Calm.setFlag s _ _)
  | stc => exact CalmRes.next (Calm.setFlag s _ _)
  | cli => exact CalmRes.next (Calm.setFlag s _ _)
  | sti => exact CalmRes.next ((Calm.setFlag s _ _).trans (Calm.delayIntr _))
  | cld => exact CalmRes.next (Calm.setFlag s _ _)
  | std => exact CalmRes.next (Calm.setFlag s _ _)
  | incEb e => exact CalmRes.next (Calm.unary8 s op1Calm_aluInc _)
  | decEb e => exact CalmRes.next (Calm.unary8 s op1Calm_aluDec _)
  | fe2 e => exact CalmRes.undocumented (CalmRes.refused s _)
  | fe3 e => exact CalmRes.undocumented (CalmRes.refused s _)
  | fe4 e => exact CalmRes.undocumented (CalmRes.refused s _)
  | fe5 e => exact CalmRes.undocumented (CalmRes.refused s _)
  | fe6 e => exact CalmRes.undocumented (CalmRes.refused s _)
  | fe7 e => exact CalmRes.undocumented (CalmRes.refused s _)
  | incEv e => exact CalmRes.next (Calm.unary16 s op1Calm_aluInc _)
  | decEv e => exact CalmRes.next (Calm.unary16 s op1Calm_aluDec _)
  | callEv e => exact CalmRes.next (Calm.callOperand s _)
  | callMp e => exact CalmRes.memoryOnly _ fun ea => CalmRes.next (Calm.callFar s _)
  | jmpEv e => exact CalmRes.next (Calm.jumpOperand s _)
  | jmpMp e => exact CalmRes.memoryOnly _ fun ea => CalmRes.next (Calm.jumpFar s _)
  | pushEv v e => exact CalmRes.documentedMain _ (CalmRes.next (Calm.pushOperand s _))

end Sys2Proof.Machine
end

