-- ==== Sys2Proof/Laws/Invariant.lean ====
section
/-!
SUPPORT. The invariant of Safety.lean: what of it does not depend on where the engine is, under anything calm and under a reset; and the instruction level, where
the engine is between operations.
-/

namespace Sys2Proof.Machine

/-! ## The invariant with a given next byte -/

/-- The part of the invariant both levels share, with the next byte to decode at offset `o`. -/
structure State.InvAt (s : State) (o : Word) : Prop where
  mem : Memory.wf s.mem = true
  flags : flagsImage s.flags = s.flags
  queue : QueueInv s
  inflight : s.biu.fetchInflight = s.fetchOnBus
  discard : s.biu.fetchDiscard = true → s.biu.fetchInflight = true
  next : s.biu.pfp - BitVec.ofNat 16 s.biu.queue.len = o
  noFault : s.driver.status ≠ .fault .queueOverrun

theorem State.Inv.at {s : State} (h : s.Inv) : s.InvAt s.nextOffset := ⟨h.mem, h.flags, h.queue, h.inflight, h.discard, h.next, h.noFault⟩

theorem State.InvAt.inv {s : State} {o : Word} (h : s.InvAt o) (n : s.nextOffset = o) (e : ∀ a, s.eng.start = some a → flagsImage a.flags = a.flags)
    (d : s.port.replay = false) : s.Inv := ⟨h.mem, h.flags, e, h.queue, h.inflight, h.discard, by rw [h.next, n], h.noFault, d⟩

/-- An update of fields the invariant does not speak of. -/
theorem State.InvAt.same {s t : State} {o : Word} (h : s.InvAt o) (m : t.mem = s.mem) (f : t.flags = s.flags) (c : t.cfg = s.cfg) (b : t.bus = s.bus)
    (i : t.biu = s.biu) (st : t.driver.status ≠ .fault .queueOverrun) : t.InvAt o where
  mem := m ▸ h.mem
  flags := by rw [f]; exact h.flags
  queue := ⟨by rw [i, c]; exact h.queue.capacity, by rw [i, c]; exact h.queue.head, by rw [i, c]; exact h.queue.tail,
    by rw [i, c]; exact h.queue.room, by rw [c]; exact h.queue.policy⟩
  inflight := by rw [i, h.inflight]; unfold State.fetchOnBus; rw [b]
  discard := by rw [i]; exact h.discard
  next := by rw [i]; exact h.next
  noFault := st

/-- What is calm keeps the next byte at IP. -/
theorem State.InvAt.calm {s t : State} (h : s.InvAt s.ip) (p : ∀ a, s.port.saved = some a → flagsImage a.flags = a.flags) (k : Calm s t) : t.InvAt t.ip where
  mem := k.mem h.mem
  flags := (k.flags ⟨h.flags, p⟩).1
  queue := by
    rcases k.biu with ⟨b, _⟩ | b
    · exact ⟨by rw [b, k.cfg]; exact h.queue.capacity, by rw [b, k.cfg]; exact h.queue.head, by rw [b, k.cfg]; exact h.queue.tail,
        by rw [b, k.cfg]; exact h.queue.room, by rw [k.cfg]; exact h.queue.policy⟩
    · have r := h.queue.room
      have p := h.queue.head
      refine ⟨by rw [b, k.cfg]; exact h.queue.capacity, by rw [b, k.cfg]; show 0 < _; omega, by rw [b]; simp, ?_, by rw [k.cfg]; exact h.queue.policy⟩
      rw [b, k.cfg]; simp only; split at r <;> simp_all; omega
  inflight := by
    have e : t.biu.fetchInflight = s.biu.fetchInflight := by rcases k.biu with ⟨b, _⟩ | b <;> rw [b]
    rw [e, h.inflight]; unfold State.fetchOnBus; rw [k.bus]
  discard := by
    rcases k.biu with ⟨b, _⟩ | b <;> rw [b]
    · exact h.discard
    · exact id
  next := by
    rcases k.biu with ⟨b, i⟩ | b
    · rw [b, i]; exact h.next
    · rw [b]; simp
  noFault := by rw [k.driver]; exact h.noFault

theorem State.nextOffset_of_base {s : State} (h : s.base.ip = s.ip) : s.nextOffset = s.ip := by unfold State.nextOffset; split; exact h; rfl

theorem State.nextOffset_of_idle {s : State} (h : s.eng.start = none) : s.nextOffset = s.ip := State.nextOffset_of_base (by unfold State.base; rw [h]; rfl)

theorem State.Inv.applyReset {s : State} (h : s.Inv) : s.applyReset.Inv where
  mem := h.mem
  flags := by show flagsImage 0xF002#16 = 0xF002#16; decide
  start a e := by cases e
  queue := ⟨by show (List.replicate s.cfg.qCap 0#8).length = s.cfg.qCap; simp, by have := h.queue.head; show 0 < s.cfg.qCap; omega, by show 0 = (0 + 0) % _; simp,
    by show 0 + 0 ≤ _; omega, h.queue.policy⟩
  inflight := rfl
  discard := id
  next := by show 0#16 - BitVec.ofNat 16 0 = 0#16; decide
  noFault := by show Status.running ≠ _; decide
  direct := rfl

/-! ## Between operations -/

/-- The invariant where the engine is between operations, as it is throughout the instruction level. -/
structure State.Between (s : State) : Prop where
  inv : s.InvAt s.ip
  idle : s.eng.start = none
  kept : ∀ a, s.port.saved = some a → flagsImage a.flags = a.flags
  direct : s.port.replay = false

theorem State.Between.out {s : State} (h : s.Between) : s.Inv ∧ s.eng.start = none :=
  ⟨h.inv.inv (State.nextOffset_of_idle h.idle) (fun a e => by rw [h.idle] at e; cases e) h.direct, h.idle⟩

/-- Every operation of the instruction level starts with the port set for direct access. -/
theorem State.Inv.between {s : State} (h : s.Inv) (e : s.eng.start = none) : { s with port := Port.direct }.Between :=
  ⟨(State.nextOffset_of_idle e ▸ h.at).same rfl rfl rfl rfl rfl h.noFault, e, fun a e => (by cases e), rfl⟩

theorem State.Between.same {s t : State} (h : s.Between) (m : t.mem = s.mem) (f : t.flags = s.flags) (c : t.cfg = s.cfg) (b : t.bus = s.bus)
    (i : t.biu = s.biu) (j : t.ip = s.ip) (e : t.eng = s.eng) (st : t.driver.status = s.driver.status) (p : t.port = s.port) : t.Between :=
  ⟨j ▸ h.inv.same m f c b i (by rw [st]; exact h.inv.noFault), by rw [e]; exact h.idle, by rw [p]; exact h.kept, by rw [p]; exact h.direct⟩

theorem State.Between.calm {s t : State} (h : s.Between) (k : Calm s t) : t.Between :=
  ⟨h.inv.calm h.kept k, by rw [k.eng]; exact h.idle, (k.flags ⟨h.inv.flags, h.kept⟩).2, k.replay.trans h.direct⟩

theorem State.Between.applyReset {s : State} (h : s.Between) : s.applyReset.Between :=
  ⟨h.out.1.applyReset.at, rfl, fun a e => (by cases e), rfl⟩

theorem State.Between.recognise {s : State} (h : s.Between) : s.recognise.Between := by
  unfold State.recognise; split
  · exact h.applyReset
  · split
    · exact h.calm ((Calm.takeEvent s _ _).trans (Calm.endBoundary _))
    · exact h.calm (Calm.endBoundary s)

theorem State.Between.sampled {s : State} (h : s.Between) : s.sampleInputs.serveDma.Between := h.calm ((Calm.sampleInputs s).trans (Calm.serveDma _))

theorem State.Between.complete {s : State} (h : s.Between) : s.completeInstr.Between := by
  refine State.Between.recognise (State.Between.sampled ?_)
  exact h.same rfl rfl rfl rfl rfl rfl rfl rfl rfl

theorem State.Between.finish {s : State} (h : s.Between) : s.finish.Between := by
  unfold State.finish; split
  · exact h
  · split
    · exact h.same rfl rfl rfl rfl rfl rfl rfl rfl rfl
    · split
      · exact h.same rfl rfl rfl rfl rfl rfl rfl rfl rfl
      · exact h.complete
      · exact h.complete

theorem State.recordFetch_eq (s : State) (n : Nat) : ∃ e, s.recordFetch n = { s with events := e } := by
  unfold State.recordFetch
  have key : ∀ (l : List Nat) (u : State), ∃ e, l.foldl (fun t k => t.record .memory .read (s.fetchAddr k) (s.fetchByte k)) u = { u with events := e } := by
    intro l
    induction l with
    | nil => exact fun u => ⟨u.events, rfl⟩
    | cons k l ih =>
      intro u
      obtain ⟨e, he⟩ := ih (u.record .memory .read (s.fetchAddr k) (s.fetchByte k))
      rw [List.foldl_cons, he, State.record_eq]; exact ⟨e, rfl⟩
  exact key _ s

theorem State.startInstr_eq (s : State) : ∃ p i e, s.startInstr = { s with pfx := p, intr := i, entered := e } := by
  unfold State.startInstr; split
  · exact ⟨s.pfx, s.intr, s.entered, rfl⟩
  · exact ⟨_, _, _, rfl⟩

theorem State.Between.commitFetch {s : State} (h : s.Between) (n : Nat) : (s.commitFetch n).Between := by
  obtain ⟨e, he⟩ := State.recordFetch_eq s n
  unfold State.commitFetch; rw [he]
  refine ⟨⟨h.inv.mem, h.inv.flags, ⟨h.inv.queue.capacity, h.inv.queue.head, h.inv.queue.tail, h.inv.queue.room, h.inv.queue.policy⟩, h.inv.inflight, h.inv.discard,
    ?_, h.inv.noFault⟩, h.idle, h.kept, h.direct⟩
  show s.biu.pfp + BitVec.ofNat 16 n - BitVec.ofNat 16 s.biu.queue.len = s.ip + BitVec.ofNat 16 n
  rw [← h.inv.next]; generalize BitVec.ofNat 16 n = a; generalize BitVec.ofNat 16 s.biu.queue.len = b; generalize s.biu.pfp = c
  bv_omega

theorem State.Inv.begin {s : State} (h : s.Inv) (e : s.eng.start = none) (n : Nat) : (s.beginInstr n).Between := by
  refine State.Between.commitFetch ?_ n
  obtain ⟨p, i, d, k⟩ := s.startInstr_eq
  rw [k]
  exact (h.between e).same rfl rfl rfl rfl rfl rfl rfl rfl rfl

theorem State.Between.calmOrReset {s t : State} (h : s.Between) (k : CalmOrReset s t) : t.Between := by
  rcases k with k | ⟨_, u, k, rfl⟩
  · exact h.calm k
  · exact (h.calm k).applyReset.same rfl rfl rfl rfl rfl rfl rfl rfl rfl

end Sys2Proof.Machine
end

