-- ==== Sys2Proof/Laws/Engine.lean ====
section
/-!
SUPPORT. Each operation of the cycle level keeps the invariant of Safety.lean and the count of cycles; and what the bus can make of a state.
-/

namespace Sys2Proof.Machine

/-- `t` keeps the invariant, if `s` has it, and the count of cycles. -/
structure Keeps (s t : State) : Prop where
  inv : s.Inv → t.Inv
  cycles : t.driver.cycles = s.driver.cycles

theorem Keeps.refl (s : State) : Keeps s s := ⟨id, rfl⟩

theorem Keeps.trans {s t u : State} (h : Keeps s t) (k : Keeps t u) : Keeps s u := ⟨k.inv ∘ h.inv, k.cycles.trans h.cycles⟩

/-- An update of fields the invariant does not speak of. -/
theorem Keeps.same {s t : State} (m : t.mem = s.mem) (f : t.flags = s.flags) (c : t.cfg = s.cfg) (b : t.bus = s.bus)
    (i : t.biu = s.biu) (n : t.nextOffset = s.nextOffset) (e : t.eng.start = s.eng.start) (cy : t.driver.cycles = s.driver.cycles)
    (st : t.driver.status = s.driver.status) (p : t.port.replay = s.port.replay) : Keeps s t :=
  ⟨fun h => (h.at.same m f c b i (by rw [st]; exact h.noFault)).inv n (by rw [e]; exact h.start) (p.trans h.direct), cy⟩

/-- Where the engine is not in the middle of an operation the next byte to decode is at IP. -/
theorem State.nextOffset_still {s : State} (h : s.midOp = false) : s.nextOffset = s.ip := by unfold State.nextOffset; rw [h]; rfl

theorem State.nextOffset_mid {s : State} (h : s.midOp = true) : s.nextOffset = s.base.ip := by unfold State.nextOffset; rw [h]; rfl

theorem State.Inv.atIp {s : State} (h : s.Inv) (m : s.midOp = false) : s.InvAt s.ip := State.nextOffset_still m ▸ h.at

/-- A state that fetches, or is complete, has its next byte at IP. -/
theorem State.midOp_of_phase {s : State} (h : ∀ k, s.eng.phase ≠ .executing k) : s.midOp = false := by
  have e : s.executing = false := by unfold State.executing; split <;> first | rfl | (rename_i k hk; exact absurd hk (h k))
  unfold State.midOp; rw [e]; rfl

/-! ## Running an operation -/

theorem State.runOp_calm {s t : State} (h : s.runOp = .next t) :
    Calm { s.withArch s.base with port := ⟨true, s.eng.answers, none, none, 0, none⟩ } t := by
  unfold State.runOp at h
  simp only at h
  split at h
  · rcases (exec_calm _ _).1 t h with k | ⟨r, _⟩
    · exact k
    · cases r
  · cases h; exact Calm.enterEvent _ _ _
  · cases h; exact Calm.refl _
  · cases h; exact Calm.refl _

theorem State.runOp_ne_fault (s : State) (f : Fault) : s.runOp ≠ .fault f := by
  unfold State.runOp
  simp only
  split
  · exact (exec_calm _ _).2 f
  all_goals exact fun e => by cases e

/-- FLAGS of what an operation started from has its hardwired bits. -/
theorem State.Inv.base {s : State} (h : s.Inv) : flagsImage s.base.flags = s.base.flags := by
  unfold State.base
  cases k : s.eng.start with
  | none => exact h.flags
  | some a => exact h.start a k

/-- What a run in the middle of an operation gives: the next byte at its IP, and FLAGS hardwired in what it has kept. -/
theorem State.Inv.runOp {s t : State} (h : s.Inv) (m : s.midOp = true) (r : s.runOp = .next t) :
    t.InvAt t.ip ∧ (∀ a, t.port.saved = some a → flagsImage a.flags = a.flags) := by
  have k := State.runOp_calm r
  have i : ({ s.withArch s.base with port := ⟨true, s.eng.answers, none, none, 0, none⟩ } : State).InvAt s.base.ip := by
    have w := State.nextOffset_mid m ▸ h.at
    exact ⟨w.mem, h.base, ⟨w.queue.capacity, w.queue.head, w.queue.tail, w.queue.room, w.queue.policy⟩, w.inflight, w.discard, w.next, w.noFault⟩
  exact ⟨i.calm (fun a e => by cases e) k, (k.flags ⟨h.base, fun a e => by cases e⟩).2⟩

theorem Keeps.acceptEvent (s : State) (ev : Event) : Keeps s (s.acceptEvent ev) := by
  cases ev <;> exact Keeps.same rfl rfl rfl rfl rfl rfl rfl rfl rfl rfl

theorem Keeps.addAnswer (s : State) (a : Answer) : Keeps s (s.addAnswer a) := Keeps.same rfl rfl rfl rfl rfl rfl rfl rfl rfl rfl

/-- Settling adds at most an answer. -/
theorem State.settle_eq {s s1 : State} {r : Res} (h : s.settle = (s1, r)) : (∃ l, s1 = { s with eng := { s.eng with answers := l } }) ∧ r = s1.runOp := by
  unfold State.settle at h
  split at h
  · rename_i t ht
    split at h
    · cases h; exact ⟨⟨_, rfl⟩, rfl⟩
    · cases h; exact ⟨⟨s.eng.answers, rfl⟩, ht.symm⟩
    · cases h; exact ⟨⟨s.eng.answers, rfl⟩, ht.symm⟩
  · rename_i f hf; cases h; exact ⟨⟨s.eng.answers, rfl⟩, hf.symm⟩
  · rename_i f hf; cases h; exact ⟨⟨s.eng.answers, rfl⟩, hf.symm⟩

/-! ## Phases -/

theorem Keeps.stall (s : State) : Keeps s s.stall := Keeps.same rfl rfl rfl rfl rfl rfl rfl rfl rfl rfl

theorem Keeps.endBoundary (s : State) : Keeps s s.endBoundary := Keeps.same rfl rfl rfl rfl rfl rfl rfl rfl rfl rfl

theorem Keeps.setStatus (s : State) {st : Status} (h : st ≠ .fault .queueOverrun) : Keeps s (s.setStatus st) :=
  ⟨fun k => (k.at.same (t := s.setStatus st) rfl rfl rfl rfl rfl h).inv rfl k.start k.direct, rfl⟩

theorem Keeps.refuseEncoding (s : State) (r : Refusal) : Keeps s (s.refuseEncoding r) := by
  have k : Keeps s { s with pfx := Pfx.clear, eng := { s.eng with stalled := false } } := Keeps.same rfl rfl rfl rfl rfl rfl rfl rfl rfl rfl
  exact k.trans (Keeps.setStatus { s with pfx := Pfx.clear, eng := { s.eng with stalled := false } } (st := .refused r) (by intro e; cases e))

/-- The engine moves between phases in which the next byte is at the same offset. -/
theorem Keeps.toPhase (s : State) {p : EngPhase} (b : Bool) (h : (s.toPhase p b).nextOffset = s.nextOffset) : Keeps s (s.toPhase p b) :=
  Keeps.same rfl rfl rfl rfl rfl h rfl rfl rfl rfl

/-- An operation starts, from a state whose next byte is at IP. -/
theorem State.InvAt.started {s : State} (h : s.InvAt s.ip) (d : s.port.replay = false) (op : EngOp) (bs : List Byte) :
    ({ s with eng := ⟨.executing 0, op, bs, false, some s.arch, [], 0, none, false, none, 0⟩ } : State).Inv := by
  refine (h.same (t := { s with eng := ⟨.executing 0, op, bs, false, some s.arch, [], 0, none, false, none, 0⟩ }) rfl rfl rfl rfl rfl h.noFault).inv ?_ ?_ d
  · exact State.nextOffset_of_base rfl
  · intro a e; cases e; exact h.flags

theorem Keeps.startOp (s : State) (op : EngOp) (m : s.midOp = false) : Keeps s (s.startOp op) := by
  unfold State.startOp
  simp only
  split
  · exact ⟨fun h => (h.atIp m).started h.direct _ _, rfl⟩
  · rename_i f hf; exact absurd hf (State.runOp_ne_fault _ f)
  · exact Keeps.refuseEncoding s _

theorem Keeps.startEntry (s : State) (ev : Event) (sip : Word) (m : s.midOp = false) : Keeps s (s.startEntry ev sip) := by
  have k : ∀ u : State, u.mem = s.mem → u.flags = s.flags → u.cfg = s.cfg → u.bus = s.bus → u.biu = s.biu → u.ip = s.ip → u.driver = s.driver →
      u.port = s.port → Keeps s (u.startOp (.entry ev sip)) := by
    intro u a b c d e f g p
    refine ⟨fun h => ?_, congrArg Driver.cycles g⟩
    exact (f ▸ (h.atIp m).same a b c d e (by rw [g]; exact h.noFault) : u.InvAt u.ip).started (by rw [p]; exact h.direct) _ _
  unfold State.startEntry
  cases ev <;> exact k _ rfl rfl rfl rfl rfl rfl rfl rfl

/-- An operation ends: the engine leaves it for a phase in which the next byte is at IP. -/
theorem Keeps.commitOp {s t : State} (m : s.midOp = true) (h : s.runOp = .next t) : Keeps s (s.commitOp t) := by
  have k := State.runOp_calm h
  have key : ∀ v : State, v.mem = t.mem → v.flags = t.flags → v.cfg = t.cfg → v.bus = t.bus → v.biu = t.biu → v.ip = t.ip → v.eng.start = none →
      v.driver.status = t.driver.status → v.driver.cycles = t.driver.cycles → v.port = Port.direct → Keeps s v := by
    intro v a b c d e f g q r p
    refine ⟨fun i => ?_, by rw [r, k.driver]; rfl⟩
    refine (f ▸ (i.runOp m h).1.same a b c d e (by rw [q]; exact (i.runOp m h).1.noFault) : v.InvAt v.ip).inv (State.nextOffset_of_idle g) ?_ (by rw [p]; rfl)
    intro x y; rw [g] at y; cases y
  unfold State.commitOp
  simp only
  split
  · exact key _ rfl rfl rfl rfl rfl rfl rfl rfl rfl rfl
  · exact key _ rfl rfl rfl rfl rfl rfl rfl rfl rfl rfl
  · exact key _ rfl rfl rfl rfl rfl rfl rfl rfl rfl rfl
  · split
    · exact key _ rfl rfl rfl rfl rfl rfl rfl rfl rfl rfl
    · split <;> exact key _ rfl rfl rfl rfl rfl rfl rfl rfl rfl rfl

/-- What a micro-step writes keeps the invariant, in the middle of an operation. -/
theorem Keeps.commitPart {s t : State} (m : s.midOp = true) (f : s.Inv → ∀ a, t.port.saved = some a → flagsImage a.flags = a.flags) :
    Keeps s (s.commitPart t) := by
  unfold State.commitPart
  split
  · rename_i a e
    refine ⟨fun h => ?_, rfl⟩
    have w := State.nextOffset_mid m ▸ h.at
    have n : ({ s.withArch a with eng := { s.eng with start := some s.base } } : State).nextOffset = s.base.ip := State.nextOffset_mid (by exact m)
    exact ⟨w.mem, f h a e, fun x y => by cases y; exact h.base, ⟨w.queue.capacity, w.queue.head, w.queue.tail, w.queue.room, w.queue.policy⟩, w.inflight,
      w.discard, by rw [n]; exact w.next, w.noFault, h.direct⟩
  · exact Keeps.refl s

/-! ## Fetching and Decoding -/

theorem prefix_eq {i : Instr} {s t : State} (hp : isPrefixInstr i = true) (h : exec i s = .next t) : ∃ p, t = s.notePrefix p := by
  cases i with
  | segES => cases h; exact ⟨_, rfl⟩
  | segCS => cases h; exact ⟨_, rfl⟩
  | segSS => cases h; exact ⟨_, rfl⟩
  | segDS => cases h; exact ⟨_, rfl⟩
  | rep => cases h; exact ⟨_, rfl⟩
  | repne => cases h; exact ⟨_, rfl⟩
  | lock v =>
    refine ⟨⟨s.pfx.seg, s.pfx.rep, true, s.pfx.start, s.pfx.last⟩, ?_⟩
    simp only [exec, execLock] at h
    cases v <;> simp only [documentedMain, Machine.undocumented] at h
    · cases h; rfl
    · split at h
      · cases h
      · cases h; rfl
  | _ => cases hp

theorem Keeps.decodeBytes (s : State) (m : ∀ k, s.eng.phase ≠ .executing k) : Keeps s s.decodeBytes := by
  have still := State.nextOffset_still (State.midOp_of_phase m)
  unfold State.decodeBytes
  split
  · exact Keeps.toPhase s _ (by rw [still]; exact State.nextOffset_still (State.midOp_of_phase fun k e => by cases e))
  · split
    · rename_i hp
      split
      · rename_i t ht
        obtain ⟨p, rfl⟩ := prefix_eq hp ht
        refine Keeps.same rfl rfl rfl rfl rfl ?_ rfl rfl rfl rfl
        rw [still]; exact State.nextOffset_still (State.midOp_of_phase fun k e => by cases e)
      · rename_i f hf; exact absurd hf ((exec_calm _ _).2 f)
      · exact Keeps.refuseEncoding s _
    · exact Keeps.startOp s _ (State.midOp_of_phase m)

theorem Keeps.popByte (s : State) {b : Byte} {q : Queue} (m : ∀ k, s.eng.phase ≠ .executing k) (h : queuePop s.biu.queue = some (b, q)) :
    Keeps s (s.popByte b q) := by
  refine ⟨fun i => ?_, rfl⟩
  unfold queuePop at h
  split at h
  · rename_i l
    cases h
    have c := i.queue
    refine ⟨i.mem, i.flags, i.start, ⟨c.capacity, ?_, ?_, ?_, c.policy⟩, i.inflight, i.discard, ?_, i.noFault, i.direct⟩
    · show (s.biu.queue.head + 1) % s.biu.queue.buf.length < s.cfg.qCap
      rw [c.capacity]; exact Nat.mod_lt _ (by have := c.head; omega)
    · show s.biu.queue.tail = ((s.biu.queue.head + 1) % s.biu.queue.buf.length + (s.biu.queue.len - 1)) % s.cfg.qCap
      rw [c.tail, c.capacity, Nat.mod_add_mod]; congr 1; omega
    · have := c.room
      show s.biu.queue.len - 1 + (if s.biu.fetchInflight then 1 else 0) ≤ s.cfg.qCap
      omega
    · have := (i.atIp (State.midOp_of_phase m)).next
      rw [State.nextOffset_still (State.midOp_of_phase (s := s.popByte _ _) m)]
      show s.biu.pfp - BitVec.ofNat 16 (s.biu.queue.len - 1) = s.ip + 1
      rw [← this]
      have e : BitVec.ofNat 16 s.biu.queue.len = BitVec.ofNat 16 (s.biu.queue.len - 1) + 1#16 := by
        rw [show (1#16) = BitVec.ofNat 16 1 from rfl, ← BitVec.ofNat_add]; congr 1; omega
      rw [e]
      generalize BitVec.ofNat 16 (s.biu.queue.len - 1) = x; generalize s.biu.pfp = y
      show y - x = y - (x + 1#16) + 1#16
      bv_omega
  · cases h

theorem Keeps.stepFetch (s : State) (m : ∀ k, s.eng.phase ≠ .executing k) : Keeps s s.stepFetch := by
  unfold State.stepFetch
  split
  · exact Keeps.stall s
  · rename_i b q h
    obtain ⟨p, i, d, e⟩ := State.startInstr_eq s
    rw [e]
    have k : Keeps s { s with pfx := p, intr := i, entered := d } := Keeps.same rfl rfl rfl rfl rfl rfl rfl rfl rfl rfl
    exact (k.trans (Keeps.popByte _ m h)).trans (Keeps.decodeBytes _ m)

/-! ## Executing -/

/-- One micro-step is done, in the middle of an operation. -/
theorem Keeps.advanceStep {s t : State} {j : Nat} (k : Nat) (ph : s.eng.phase = .executing j) (m : s.midOp = true)
    (f : s.Inv → ∀ a, t.port.saved = some a → flagsImage a.flags = a.flags) : Keeps s (s.advanceStep t k) := by
  unfold State.advanceStep
  refine (Keeps.commitPart m f).trans (Keeps.toPhase _ _ ?_)
  have e : (s.commitPart t).eng.phase = .executing j := by unfold State.commitPart; split <;> exact ph
  unfold State.nextOffset State.midOp State.executing
  rw [e]; rfl

theorem Keeps.microStep {s t : State} {j : Nat} (k : Nat) (ph : s.eng.phase = .executing j) (m : s.midOp = true) (h : s.runOp = .next t) :
    Keeps s (s.microStep t k) := by
  have f : s.Inv → ∀ a, t.port.saved = some a → flagsImage a.flags = a.flags := fun i => (i.runOp m h).2
  have g : Keeps s { s with eng := { s.eng with gap := s.eng.gap + 1 } } := Keeps.same rfl rfl rfl rfl rfl rfl rfl rfl rfl rfl
  have back : ({ s with eng := { s.eng with gap := s.eng.gap + 1 } } : State).Inv → s.Inv := fun i => ⟨i.mem, i.flags, i.start,
    ⟨i.queue.capacity, i.queue.head, i.queue.tail, i.queue.room, i.queue.policy⟩, i.inflight, i.discard, i.next, i.noFault, i.direct⟩
  unfold State.microStep
  simp only
  split
  · split
    · exact g.trans (Keeps.advanceStep k ph m fun i => f (back i))
    · (refine Keeps.trans ?_ (Keeps.stall _); exact Keeps.same rfl rfl rfl rfl rfl rfl rfl rfl rfl rfl)
  · exact Keeps.stall s
  · split
    · exact g.trans (Keeps.advanceStep k ph m fun i => f (back i))
    · exact Keeps.commitOp m h

theorem Keeps.accessDone {s t : State} {j : Nat} (k : Nat) (ph : s.eng.phase = .executing j) (m : s.midOp = true) (h : s.runOp = .next t) :
    Keeps s (s.accessDone t k) := by
  have f : s.Inv → ∀ a, t.port.saved = some a → flagsImage a.flags = a.flags := fun i => (i.runOp m h).2
  unfold State.accessDone
  simp only
  split
  · exact Keeps.advanceStep k ph m f
  · split
    · exact Keeps.advanceStep k ph m f
    · exact Keeps.commitOp m h

theorem Keeps.waitTick (s : State) (w : s.waiting = true) : Keeps s s.waitTick := by
  have m : s.midOp = false := by unfold State.midOp; rw [w]; simp
  unfold State.waitTick
  split
  · refine Keeps.same rfl rfl rfl rfl rfl ?_ rfl rfl rfl rfl
    rw [State.nextOffset_still m]; exact State.nextOffset_still (State.midOp_of_phase fun k e => by cases e)
  · split
    · exact Keeps.startEntry s _ _ m
    · exact Keeps.toPhase s _ rfl

theorem Keeps.haltTick (s : State) (o : s.eng.op = .halt) : Keeps s s.haltTick := by
  have m : s.midOp = false := by unfold State.midOp; rw [o]; simp
  unfold State.haltTick
  split
  · exact Keeps.startEntry s _ _ m
  · exact Keeps.toPhase s _ rfl

theorem Keeps.stepExec (s : State) {j : Nat} (k : Nat) (ph : s.eng.phase = .executing j) : Keeps s (s.stepExec k) := by
  unfold State.stepExec
  split
  · rename_i o; exact Keeps.haltTick s o
  · rename_i o
    split
    · rename_i w; exact Keeps.waitTick s w
    · rename_i w
      have m : s.midOp = true := by unfold State.midOp State.executing; rw [ph]; simp [o, w]
      have settled : ∀ u : State, u.midOp = true → u.eng.phase = .executing j → ∀ (g : State → State → State),
          (∀ v t : State, v.midOp = true → v.eng.phase = .executing j → v.runOp = .next t → Keeps v (g v t)) →
          Keeps u (match u.settle with
            | (s1, .next t) => g s1 t
            | (s1, .fault f) => s1.setStatus (.fault f)
            | (s1, .refused r) => s1.setStatus (.refused r)) := by
        intro u mu pu g hg
        rcases hr : u.settle with ⟨s1, r⟩
        obtain ⟨⟨l, e⟩, hk⟩ := State.settle_eq hr
        have k1 : Keeps u s1 := by rw [e]; exact Keeps.same rfl rfl rfl rfl rfl rfl rfl rfl rfl rfl
        have m1 : s1.midOp = true := by rw [e]; exact mu
        have p1 : s1.eng.phase = .executing j := by rw [e]; exact pu
        cases r with
        | next t => exact k1.trans (hg s1 t m1 p1 hk.symm)
        | fault f => exact absurd hk.symm (State.runOp_ne_fault _ f)
        | refused x => exact k1.trans (Keeps.setStatus _ (by intro e; cases e))
      split
      · rename_i d hd
        have ka : Keeps s (s.absorb d) := Keeps.same rfl rfl rfl rfl rfl rfl rfl rfl rfl rfl
        exact ka.trans (settled (s.absorb d) m ph (fun v t => v.accessDone t k) fun v t mv pv hv => Keeps.accessDone k pv mv hv)
      · split
        · exact Keeps.stall s
        · exact settled s m ph (fun v t => v.microStep t k) fun v t mv pv hv => Keeps.microStep k pv mv hv

/-! ## Complete -/

theorem Keeps.stepComplete (s : State) (ph : s.eng.phase = .complete) : Keeps s s.stepComplete := by
  have m : s.midOp = false := State.midOp_of_phase fun k e => by rw [ph] at e; cases e
  have rest : ∀ v : State, v.mem = s.mem → v.flags = s.flags → v.cfg = s.cfg → v.bus = s.bus → v.biu = s.biu → v.ip = s.ip → v.driver = s.driver →
      v.port = s.port → v.eng.start = none → Keeps s v := by
    intro v a b c d e f g p z
    refine ⟨fun h => ?_, congrArg Driver.cycles g⟩
    exact (f ▸ (h.atIp m).same a b c d e (by rw [g]; exact h.noFault) : v.InvAt v.ip).inv (State.nextOffset_of_idle z) (fun x y => by rw [z] at y; cases y)
      (by rw [p]; exact h.direct)
  unfold State.stepComplete
  split
  · exact Keeps.startEntry s _ _ m
  · split
    · exact Keeps.startEntry s _ _ m
    · simp only
      split
      · exact rest _ rfl rfl rfl rfl rfl rfl rfl rfl rfl
      · exact rest _ rfl rfl rfl rfl rfl rfl rfl rfl rfl

theorem Keeps.stepCycle (s : State) : Keeps s s.stepCycle := by
  unfold State.stepCycle
  split <;> rename_i ph
  · exact Keeps.stepFetch s fun k e => by rw [ph] at e; cases e
  · exact Keeps.stepFetch s fun k e => by rw [ph] at e; cases e
  · exact Keeps.stepExec s _ ph
  · exact Keeps.stepComplete s ph

/-! ## The bus -/

/-- What keeps the invariant wherever the next byte is, and leaves the engine's place alone. -/
theorem Keeps.ofAt {s t : State} (h : ∀ o, s.InvAt o → t.InvAt o) (n : t.nextOffset = s.nextOffset) (e : t.eng.start = s.eng.start)
    (cy : t.driver.cycles = s.driver.cycles) (p : t.port.replay = s.port.replay) : Keeps s t :=
  ⟨fun i => (h _ i.at).inv n (by rw [e]; exact i.start) (p.trans i.direct), cy⟩

theorem State.stepDevices_eq (s : State) : ∃ d, s.stepDevices = { s with devtm := d } := by
  unfold State.stepDevices; cases s.cfg.devStep <;> exact ⟨_, rfl⟩

/-- A cycle that is not a fetch starts on an idle bus. -/
theorem State.InvAt.startBus {s : State} {o : Word} (h : s.InvAt o) (b : s.bus = .idle) (sp : Space) (d : Dir) (a : PAddr) (v : Byte) {r : Requester}
    (hr : r ≠ .fetch) : (s.startBus sp d a v r).InvAt o := by
  have z : s.biu.fetchInflight = false := by rw [h.inflight]; unfold State.fetchOnBus; rw [b]; rfl
  refine ⟨h.mem, h.flags, ⟨h.queue.capacity, h.queue.head, h.queue.tail, h.queue.room, h.queue.policy⟩, ?_, h.discard, h.next, h.noFault⟩
  show s.biu.fetchInflight = _
  rw [z]; unfold State.fetchOnBus State.startBus
  cases r <;> simp [Bus.cycle?] at hr ⊢

/-- What acknowledging a DMA or refresh request can change. -/
theorem State.acknowledge_eq (s : State) (ch : Nat) : ∃ d l, s.acknowledge ch = { s with devtm := d, hostLines := l } := by
  unfold State.acknowledge; cases s.hostDma ch <;> exact ⟨_, _, rfl⟩

theorem State.acknowledgeRefresh_eq (s : State) : ∃ d l, s.acknowledgeRefresh = { s with devtm := d, hostLines := l } := by
  unfold State.acknowledgeRefresh; cases s.hostLines.refresh <;> exact ⟨_, _, rfl⟩

/-- A fetch is granted only where there is room for its byte (R113). -/
theorem State.arbitrate_fetch {s : State} (h : s.arbitrate = some .fetch) : s.fetchEligible = true := by
  unfold State.arbitrate at h
  obtain ⟨k, _, hk⟩ := List.exists_of_findSome?_eq_some h
  unfold State.candidate at hk
  cases k <;> simp only at hk <;> split at hk <;> first | (cases hk; done) | (rename_i g; first | exact g | skip)
  all_goals (try (simp at hk))

/-- A grant, on an idle bus. -/
theorem Keeps.grant (s : State) (hb : s.bus = .idle) : Keeps s s.grant := by
  have idle : Keeps s { s with bus := .idle } := Keeps.same rfl rfl rfl hb.symm rfl rfl rfl rfl rfl rfl
  have start : ∀ (u : State) (sp d a v r), Keeps s u → u.bus = .idle → r ≠ .fetch → Keeps s (u.startBus sp d a v r) := by
    intro u sp d a v r k b hr
    exact k.trans (Keeps.ofAt (fun o h => h.startBus b sp d a v hr) rfl rfl rfl rfl)
  unfold State.grant
  split
  · rename_i r hr
    cases r with
    | fetch =>
      have fe := State.arbitrate_fetch hr
      refine Keeps.ofAt (fun o i => ?_) rfl rfl rfl rfl
      have z : s.biu.fetchInflight = false := by rw [i.inflight]; unfold State.fetchOnBus; rw [hb]; rfl
      have room : s.biu.queue.len + s.cfg.fetchFree ≤ s.cfg.qCap := by
        unfold State.fetchEligible at fe; simp [z] at fe; exact fe.1.1.1
      have pol := i.queue.policy
      refine ⟨i.mem, i.flags, ⟨i.queue.capacity, i.queue.head, i.queue.tail, ?_, pol⟩, ?_, ?_, i.next, i.noFault⟩
      · show s.biu.queue.len + 1 ≤ s.cfg.qCap; omega
      · rfl
      · intro _; rfl
    | operand =>
      simp only [State.startCycle]
      split
      · exact start _ _ _ _ _ _ (Keeps.same rfl rfl rfl rfl rfl rfl rfl rfl rfl rfl) hb (by intro h; cases h)
      · exact idle
    | dma ch =>
      simp only [State.startCycle]
      split
      · obtain ⟨d, l, e⟩ := s.acknowledge_eq ch
        rw [e]
        unfold State.startDma
        split
        · exact start _ _ _ _ _ _ (Keeps.same rfl rfl rfl rfl rfl rfl rfl rfl rfl rfl) hb (by intro h; cases h)
        · exact start _ _ _ _ _ _ (Keeps.same rfl rfl rfl rfl rfl rfl rfl rfl rfl rfl) hb (by intro h; cases h)
      · exact idle
    | refresh =>
      simp only [State.startCycle]
      split
      · obtain ⟨d, l, e⟩ := s.acknowledgeRefresh_eq
        rw [e]
        exact start _ _ _ _ _ _ (Keeps.same rfl rfl rfl rfl rfl rfl rfl rfl rfl rfl) hb (by intro h; cases h)
      · exact idle
  · exact idle

/-- The running cycle moves to its next phase, with at most one byte stored. -/
theorem Keeps.busMove {s t : State} (m : t.mem = s.mem ∨ ∃ (a : PAddr) (v : Byte), t.mem = Memory.write s.mem a.toNat v) (f : t.flags = s.flags) (c : t.cfg = s.cfg)
    (b : t.bus.cycle?.map (·.req) = s.bus.cycle?.map (·.req)) (i : t.biu = s.biu) (n : t.nextOffset = s.nextOffset) (e : t.eng.start = s.eng.start)
    (dr : t.driver = s.driver) (p : t.port.replay = s.port.replay) : Keeps s t := by
  refine Keeps.ofAt (fun o h => ?_) n e (by rw [dr]) p
  have fb : t.fetchOnBus = s.fetchOnBus := by
    unfold State.fetchOnBus
    cases hs : s.bus.cycle? <;> cases ht : t.bus.cycle? <;> rw [hs, ht] at b <;> simp at b ⊢
    rw [b]
  exact ⟨by rcases m with m | ⟨a, v, m⟩ <;> rw [m]; exact h.mem; exact Memory.write_keeps_wf h.mem a v, by rw [f]; exact h.flags,
    ⟨by rw [i, c]; exact h.queue.capacity, by rw [i, c]; exact h.queue.head, by rw [i, c]; exact h.queue.tail,
    by rw [i, c]; exact h.queue.room, by rw [c]; exact h.queue.policy⟩, by rw [i, h.inflight, fb], by rw [i]; exact h.discard, by rw [i]; exact h.next,
    by rw [dr]; exact h.noFault⟩

theorem State.commitTransfer_eq (s : State) (c : Cycle) : ∃ m e, s.commitTransfer c = { s with mem := m, events := e } ∧ (m = s.mem ∨ m = Memory.write s.mem c.addr.toNat c.data) := by
  unfold State.commitTransfer
  cases c.dir <;> simp only [State.record_eq]
  · exact ⟨_, _, rfl, Or.inl rfl⟩
  · rcases State.storeValue_eq s c.space c.addr c.data with h | h <;> rw [h]
    · exact ⟨_, _, rfl, Or.inl rfl⟩
    · exact ⟨_, _, rfl, Or.inr rfl⟩

/-- A fetched byte finds room, or is dropped (R107, R114). -/
theorem State.InvAt.completeFetch {s : State} {o : Word} (h : s.InvAt o) (fb : s.fetchOnBus = true) (d : Delivery) :
    ({ s.completeFetch d with bus := .idle } : State).InvAt o := by
  have r := h.queue.room
  rw [h.inflight, fb] at r
  have cp := h.queue.capacity
  unfold State.completeFetch
  simp only
  split
  · exact ⟨h.mem, h.flags, ⟨cp, h.queue.head, h.queue.tail, by show s.biu.queue.len + 0 ≤ s.cfg.qCap; omega, h.queue.policy⟩, rfl, id, h.next, h.noFault⟩
  · unfold State.pushFetched queuePush
    simp only
    split
    · rename_i q hq
      split at hq
      · cases hq
        refine ⟨h.mem, h.flags, ⟨by show (s.biu.queue.buf.set _ _).length = s.cfg.qCap; rw [List.length_set]; exact cp, h.queue.head, ?_, ?_, h.queue.policy⟩,
          rfl, id, ?_, h.noFault⟩
        · show (s.biu.queue.tail + 1) % s.biu.queue.buf.length = (s.biu.queue.head + (s.biu.queue.len + 1)) % s.cfg.qCap
          rw [cp, h.queue.tail, Nat.mod_add_mod, Nat.add_assoc]
        · show s.biu.queue.len + 1 + 0 ≤ s.cfg.qCap; simp at r; omega
        · show s.biu.pfp + 1 - BitVec.ofNat 16 (s.biu.queue.len + 1) = o
          rw [← h.next, BitVec.ofNat_add]
          generalize BitVec.ofNat 16 s.biu.queue.len = x; generalize s.biu.pfp = y
          show y + 1#16 - (x + 1#16) = y - x
          bv_omega
      · cases hq
    · rename_i hq
      split at hq
      · cases hq
      · simp at r; omega

theorem State.completeFetch_rest (s : State) (d : Delivery) : (s.completeFetch d).eng = s.eng ∧ (s.completeFetch d).waiting = s.waiting ∧
    (s.completeFetch d).ip = s.ip ∧ (s.completeFetch d).regs = s.regs ∧ (s.completeFetch d).segs = s.segs ∧ (s.completeFetch d).flags = s.flags ∧
    (s.completeFetch d).draws = s.draws ∧ (s.completeFetch d).port = s.port ∧ (s.completeFetch d).driver.cycles = s.driver.cycles := by
  unfold State.completeFetch State.pushFetched
  simp only
  split
  · simp
  · split <;> simp

/-- The offset of the next byte depends on the engine, WAIT and IP alone. -/
theorem State.nextOffset_congr {s t : State} (e : t.eng.start = s.eng.start) (p : t.eng.phase = s.eng.phase) (o : t.eng.op = s.eng.op) (w : t.waiting = s.waiting)
    (i : t.ip = s.ip) : t.nextOffset = s.nextOffset := by
  unfold State.nextOffset State.midOp State.executing State.base
  rw [e, p, o, w]
  cases s.eng.start with
  | none => simp only [Option.getD_none, State.arch, i]
  | some a => simp only [Option.getD_some, i]

theorem Keeps.completeCycle (s : State) (c : Cycle) (hb : s.bus = .t4 c) : Keeps s { s.completeCycle c with bus := .idle } := by
  have nf : ∀ u : State, u.mem = s.mem → u.flags = s.flags → u.cfg = s.cfg → u.biu = s.biu → u.driver = s.driver → u.port = s.port →
      u.nextOffset = s.nextOffset → u.eng.start = s.eng.start → c.req ≠ .fetch → Keeps s { u with bus := .idle } := by
    intro u a1 a2 a3 a4 a5 a6 n e hr
    refine Keeps.ofAt (fun o h => ?_) n e (congrArg Driver.cycles a5) (congrArg Port.replay a6)
    have fb : s.fetchOnBus = false := by
      unfold State.fetchOnBus; rw [hb]; simp only [Bus.cycle?]; cases hc : c.req <;> rw [hc] at hr <;> simp at hr ⊢
    have z : s.biu.fetchInflight = false := by rw [h.inflight, fb]
    refine ⟨a1 ▸ h.mem, by show flagsImage u.flags = u.flags; rw [a2]; exact h.flags,
      ⟨by show u.biu.queue.buf.length = u.cfg.qCap; rw [a4, a3]; exact h.queue.capacity, by show u.biu.queue.head < u.cfg.qCap; rw [a4, a3]; exact h.queue.head,
       by show u.biu.queue.tail = _ % u.cfg.qCap; rw [a4, a3]; exact h.queue.tail,
      by show u.biu.queue.len + (if u.biu.fetchInflight then 1 else 0) ≤ u.cfg.qCap; rw [a4, a3]; exact h.queue.room,
      by show 1 ≤ u.cfg.fetchFree; rw [a3]; exact h.queue.policy⟩, by show u.biu.fetchInflight = false; rw [a4, z],
      by show u.biu.fetchDiscard = true → _; rw [a4]; exact h.discard,
      by show u.biu.pfp - BitVec.ofNat 16 u.biu.queue.len = o; rw [a4]; exact h.next, by show u.driver.status ≠ _; rw [a5]; exact h.noFault⟩
  unfold State.completeCycle
  simp only
  split
  · rename_i hr
    have fb : s.fetchOnBus = true := by
      unfold State.fetchOnBus; rw [hb]; simp only [Bus.cycle?]; rw [hr]; rfl
    obtain ⟨r1, r2, r3, _, _, _, _, r8, r9⟩ :=
      State.completeFetch_rest { s with lastBus := if c.space == .halt then s.lastBus else c.data } ⟨c.data, c.addrFault⟩
    refine Keeps.ofAt (fun o h => ?_) ?_ (congrArg Engine.start r1) r9 (congrArg Port.replay r8)
    · exact State.InvAt.completeFetch (s := { s with lastBus := if c.space == .halt then s.lastBus else c.data })
        (h.same rfl rfl rfl rfl rfl h.noFault) fb _
    · exact State.nextOffset_congr (congrArg Engine.start r1) (congrArg Engine.phase r1) (congrArg Engine.op r1) r2 r3
  · rename_i hr; exact nf _ rfl rfl rfl rfl rfl rfl rfl rfl (by rw [hr]; intro h; cases h)
  · rename_i hr; exact nf _ rfl rfl rfl rfl rfl rfl rfl rfl (by rw [hr]; intro h; cases h)
  · rename_i hr; exact nf _ rfl rfl rfl rfl rfl rfl rfl rfl (by rw [hr]; intro h; cases h)

theorem Keeps.advanceCycle (s : State) : Keeps s s.advanceCycle := by
  obtain ⟨d, e⟩ := State.stepDevices_eq s
  have k : Keeps s { s with devtm := d } := Keeps.same rfl rfl rfl rfl rfl rfl rfl rfl rfl rfl
  unfold State.advanceCycle
  rw [e]
  refine k.trans ?_
  generalize hu : ({ s with devtm := d } : State) = u
  simp only
  split
  · rename_i h; exact Keeps.grant u h
  · rename_i c h; exact Keeps.busMove (Or.inl rfl) rfl rfl (by rw [h]; rfl) rfl rfl rfl rfl rfl
  · rename_i c h
    unfold State.enterT3
    split
    · obtain ⟨v, m, q⟩ := u.readValue_eq true c.space c.addr
      simp only [q]
      exact Keeps.busMove (Or.inl rfl) rfl rfl (by rw [h]; rfl) rfl rfl rfl rfl rfl
    · exact Keeps.busMove (Or.inl rfl) rfl rfl (by rw [h]; rfl) rfl rfl rfl rfl rfl
  · rename_i c h
    split
    · exact Keeps.busMove (Or.inl rfl) rfl rfl (by rw [h]; rfl) rfl rfl rfl rfl rfl
    · obtain ⟨m, ev, q, w⟩ := State.commitTransfer_eq u c
      rw [q]
      exact Keeps.busMove (w.imp id fun w => ⟨_, _, w⟩) rfl rfl (by rw [h]; rfl) rfl rfl rfl rfl rfl
  · rename_i c h
    split
    · exact Keeps.busMove (Or.inl rfl) rfl rfl (by rw [h]; rfl) rfl rfl rfl rfl rfl
    · obtain ⟨m, ev, q, w⟩ := State.commitTransfer_eq u c
      rw [q]
      exact Keeps.busMove (w.imp id fun w => ⟨_, _, w⟩) rfl rfl (by rw [h]; rfl) rfl rfl rfl rfl rfl
  · rename_i c h
    exact (Keeps.completeCycle u c h).trans (Keeps.grant _ rfl)

/-! ## The driver -/

theorem Keeps.applyInput (s : State) (h : HostInput) : Keeps s (s.applyInput h) := Keeps.same rfl rfl rfl rfl rfl rfl rfl rfl rfl rfl

theorem Keeps.sampleInputs (s : State) : Keeps s s.sampleInputs := by
  unfold State.sampleInputs
  split
  · rename_i h rest _
    exact (Keeps.same rfl rfl rfl rfl rfl rfl rfl rfl rfl rfl : Keeps s { s with inputs := rest }).trans (Keeps.applyInput _ h)
  · exact Keeps.same rfl rfl rfl rfl rfl rfl rfl rfl rfl rfl

theorem Keeps.validate (s : State) : Keeps s s.validate := by
  have key : ∀ (ses : Option Session) (dv : Driver), dv.cycles = s.driver.cycles → dv.status = s.driver.status → Keeps s { s with session := ses, driver := dv } :=
    fun _ _ a b => Keeps.same rfl rfl rfl rfl rfl rfl rfl a b rfl
  unfold State.validate
  split
  · unfold State.validateCycle
    split
    · exact key _ _ rfl rfl
    · simp only
      split
      · exact key _ _ rfl rfl
      · exact key _ _ rfl rfl
      · split
        · exact key _ _ rfl rfl
        · exact key _ _ rfl rfl
        · exact key _ _ rfl rfl
        · unfold State.recordComparison
          simp only
          split
          · exact key _ _ rfl rfl
          · exact key _ _ rfl rfl
  · exact key s.session _ rfl rfl

theorem Keeps.noteCheckpoint (s : State) : Keeps s s.noteCheckpoint := by
  unfold State.noteCheckpoint
  split
  · exact Keeps.same rfl rfl rfl rfl rfl rfl rfl rfl rfl rfl
  · exact Keeps.refl s

theorem Keeps.updateStatus (s : State) : Keeps s s.updateStatus := by
  unfold State.updateStatus
  split
  · exact Keeps.refl s
  · refine Keeps.setStatus s ?_
    unfold State.liveStatus; split
    · decide
    · split <;> decide

end Sys2Proof.Machine
end

