-- ==== Sys2Proof/Laws/PerInstr.lean ====
section
/-!
SUPPORT. The family EncodeLength: every instruction, whatever its operands, encodes to one to six bytes (R153), one lemma for each constructor.
-/

namespace Sys2Proof

/-- The ModR/M byte and its displacement are one to three bytes (R144, R148). -/
theorem encE_length {R : Type} (code : R → BitVec 3) (g : BitVec 3) (e : Rm R) : 1 ≤ (encE code g e).length ∧ (encE code g e).length ≤ 3 := by
  cases e with
  | reg r => exact ⟨Nat.le_of_ble_eq_true rfl, Nat.le_of_ble_eq_true rfl⟩
  | mem ea => cases ea <;> exact ⟨Nat.le_of_ble_eq_true rfl, Nat.le_of_ble_eq_true rfl⟩

end Sys2Proof

/-- An instruction's bytes are at least one and at most six (R153). -/
def Sys2Proof.Laws.EncodeLength.Statement (i : Sys2Proof.Instr) : Prop :=
  1 ≤ (Sys2Proof.encode i).length ∧ (Sys2Proof.encode i).length ≤ Sys2Proof.maxInstrBytes


namespace Sys2Proof.Laws.EncodeLength

/-- An opcode before an E operand. -/
theorem ofE {i : Sys2Proof.Instr} {R : Type} {code : R → BitVec 3} {op : Sys2Proof.Byte} {g : BitVec 3} {e : Sys2Proof.Rm R} {tail : List Sys2Proof.Byte}
    (h : Sys2Proof.encode i = op :: (Sys2Proof.encE code g e ++ tail)) (t : tail.length ≤ 2) : Statement i := by
  have k := Sys2Proof.encE_length code g e
  unfold Statement Sys2Proof.maxInstrBytes
  rw [h]; simp only [List.length_cons, List.length_append]; omega

/-- An opcode alone before an E operand. -/
theorem ofE0 {i : Sys2Proof.Instr} {R : Type} {code : R → BitVec 3} {op : Sys2Proof.Byte} {g : BitVec 3} {e : Sys2Proof.Rm R}
    (h : Sys2Proof.encode i = op :: Sys2Proof.encE code g e) : Statement i := ofE (tail := []) (by rw [h, List.append_nil]) (by decide)

theorem addEbGb (e : Sys2Proof.Rm8) (g : Sys2Proof.Reg8) : Statement (.addEbGb e g) := ofE0 rfl
theorem addEvGv (e : Sys2Proof.Rm16) (g : Sys2Proof.Reg16) : Statement (.addEvGv e g) := ofE0 rfl
theorem addGbEb (g : Sys2Proof.Reg8) (e : Sys2Proof.Rm8) : Statement (.addGbEb g e) := ofE0 rfl
theorem addGvEv (g : Sys2Proof.Reg16) (e : Sys2Proof.Rm16) : Statement (.addGvEv g e) := ofE0 rfl
theorem addALIb (imm : Sys2Proof.Byte) : Statement (.addALIb imm) := ⟨Nat.le_of_ble_eq_true rfl, Nat.le_of_ble_eq_true rfl⟩
theorem addAXIv (imm : Sys2Proof.Word) : Statement (.addAXIv imm) := ⟨Nat.le_of_ble_eq_true rfl, Nat.le_of_ble_eq_true rfl⟩
theorem pushSreg (s : Sys2Proof.SReg) : Statement (.pushSreg s) := ⟨Nat.le_of_ble_eq_true rfl, Nat.le_of_ble_eq_true rfl⟩
theorem popSreg (s : Sys2Proof.SReg) : Statement (.popSreg s) := ⟨Nat.le_of_ble_eq_true rfl, Nat.le_of_ble_eq_true rfl⟩
theorem orEbGb (e : Sys2Proof.Rm8) (g : Sys2Proof.Reg8) : Statement (.orEbGb e g) := ofE0 rfl
theorem orEvGv (e : Sys2Proof.Rm16) (g : Sys2Proof.Reg16) : Statement (.orEvGv e g) := ofE0 rfl
theorem orGbEb (g : Sys2Proof.Reg8) (e : Sys2Proof.Rm8) : Statement (.orGbEb g e) := ofE0 rfl
theorem orGvEv (g : Sys2Proof.Reg16) (e : Sys2Proof.Rm16) : Statement (.orGvEv g e) := ofE0 rfl
theorem orALIb (imm : Sys2Proof.Byte) : Statement (.orALIb imm) := ⟨Nat.le_of_ble_eq_true rfl, Nat.le_of_ble_eq_true rfl⟩
theorem orAXIv (imm : Sys2Proof.Word) : Statement (.orAXIv imm) := ⟨Nat.le_of_ble_eq_true rfl, Nat.le_of_ble_eq_true rfl⟩
theorem adcEbGb (e : Sys2Proof.Rm8) (g : Sys2Proof.Reg8) : Statement (.adcEbGb e g) := ofE0 rfl
theorem adcEvGv (e : Sys2Proof.Rm16) (g : Sys2Proof.Reg16) : Statement (.adcEvGv e g) := ofE0 rfl
theorem adcGbEb (g : Sys2Proof.Reg8) (e : Sys2Proof.Rm8) : Statement (.adcGbEb g e) := ofE0 rfl
theorem adcGvEv (g : Sys2Proof.Reg16) (e : Sys2Proof.Rm16) : Statement (.adcGvEv g e) := ofE0 rfl
theorem adcALIb (imm : Sys2Proof.Byte) : Statement (.adcALIb imm) := ⟨Nat.le_of_ble_eq_true rfl, Nat.le_of_ble_eq_true rfl⟩
theorem adcAXIv (imm : Sys2Proof.Word) : Statement (.adcAXIv imm) := ⟨Nat.le_of_ble_eq_true rfl, Nat.le_of_ble_eq_true rfl⟩
theorem sbbEbGb (e : Sys2Proof.Rm8) (g : Sys2Proof.Reg8) : Statement (.sbbEbGb e g) := ofE0 rfl
theorem sbbEvGv (e : Sys2Proof.Rm16) (g : Sys2Proof.Reg16) : Statement (.sbbEvGv e g) := ofE0 rfl
theorem sbbGbEb (g : Sys2Proof.Reg8) (e : Sys2Proof.Rm8) : Statement (.sbbGbEb g e) := ofE0 rfl
theorem sbbGvEv (g : Sys2Proof.Reg16) (e : Sys2Proof.Rm16) : Statement (.sbbGvEv g e) := ofE0 rfl
theorem sbbALIb (imm : Sys2Proof.Byte) : Statement (.sbbALIb imm) := ⟨Nat.le_of_ble_eq_true rfl, Nat.le_of_ble_eq_true rfl⟩
theorem sbbAXIv (imm : Sys2Proof.Word) : Statement (.sbbAXIv imm) := ⟨Nat.le_of_ble_eq_true rfl, Nat.le_of_ble_eq_true rfl⟩
theorem andEbGb (e : Sys2Proof.Rm8) (g : Sys2Proof.Reg8) : Statement (.andEbGb e g) := ofE0 rfl
theorem andEvGv (e : Sys2Proof.Rm16) (g : Sys2Proof.Reg16) : Statement (.andEvGv e g) := ofE0 rfl
theorem andGbEb (g : Sys2Proof.Reg8) (e : Sys2Proof.Rm8) : Statement (.andGbEb g e) := ofE0 rfl
theorem andGvEv (g : Sys2Proof.Reg16) (e : Sys2Proof.Rm16) : Statement (.andGvEv g e) := ofE0 rfl
theorem andALIb (imm : Sys2Proof.Byte) : Statement (.andALIb imm) := ⟨Nat.le_of_ble_eq_true rfl, Nat.le_of_ble_eq_true rfl⟩
theorem andAXIv (imm : Sys2Proof.Word) : Statement (.andAXIv imm) := ⟨Nat.le_of_ble_eq_true rfl, Nat.le_of_ble_eq_true rfl⟩
theorem segES : Statement (.segES) := ⟨by decide, by decide⟩
theorem daa : Statement (.daa) := ⟨by decide, by decide⟩
theorem subEbGb (e : Sys2Proof.Rm8) (g : Sys2Proof.Reg8) : Statement (.subEbGb e g) := ofE0 rfl
theorem subEvGv (e : Sys2Proof.Rm16) (g : Sys2Proof.Reg16) : Statement (.subEvGv e g) := ofE0 rfl
theorem subGbEb (g : Sys2Proof.Reg8) (e : Sys2Proof.Rm8) : Statement (.subGbEb g e) := ofE0 rfl
theorem subGvEv (g : Sys2Proof.Reg16) (e : Sys2Proof.Rm16) : Statement (.subGvEv g e) := ofE0 rfl
theorem subALIb (imm : Sys2Proof.Byte) : Statement (.subALIb imm) := ⟨Nat.le_of_ble_eq_true rfl, Nat.le_of_ble_eq_true rfl⟩
theorem subAXIv (imm : Sys2Proof.Word) : Statement (.subAXIv imm) := ⟨Nat.le_of_ble_eq_true rfl, Nat.le_of_ble_eq_true rfl⟩
theorem segCS : Statement (.segCS) := ⟨by decide, by decide⟩
theorem das : Statement (.das) := ⟨by decide, by decide⟩
theorem xorEbGb (e : Sys2Proof.Rm8) (g : Sys2Proof.Reg8) : Statement (.xorEbGb e g) := ofE0 rfl
theorem xorEvGv (e : Sys2Proof.Rm16) (g : Sys2Proof.Reg16) : Statement (.xorEvGv e g) := ofE0 rfl
theorem xorGbEb (g : Sys2Proof.Reg8) (e : Sys2Proof.Rm8) : Statement (.xorGbEb g e) := ofE0 rfl
theorem xorGvEv (g : Sys2Proof.Reg16) (e : Sys2Proof.Rm16) : Statement (.xorGvEv g e) := ofE0 rfl
theorem xorALIb (imm : Sys2Proof.Byte) : Statement (.xorALIb imm) := ⟨Nat.le_of_ble_eq_true rfl, Nat.le_of_ble_eq_true rfl⟩
theorem xorAXIv (imm : Sys2Proof.Word) : Statement (.xorAXIv imm) := ⟨Nat.le_of_ble_eq_true rfl, Nat.le_of_ble_eq_true rfl⟩
theorem segSS : Statement (.segSS) := ⟨by decide, by decide⟩
theorem aaa : Statement (.aaa) := ⟨by decide, by decide⟩
theorem cmpEbGb (e : Sys2Proof.Rm8) (g : Sys2Proof.Reg8) : Statement (.cmpEbGb e g) := ofE0 rfl
theorem cmpEvGv (e : Sys2Proof.Rm16) (g : Sys2Proof.Reg16) : Statement (.cmpEvGv e g) := ofE0 rfl
theorem cmpGbEb (g : Sys2Proof.Reg8) (e : Sys2Proof.Rm8) : Statement (.cmpGbEb g e) := ofE0 rfl
theorem cmpGvEv (g : Sys2Proof.Reg16) (e : Sys2Proof.Rm16) : Statement (.cmpGvEv g e) := ofE0 rfl
theorem cmpALIb (imm : Sys2Proof.Byte) : Statement (.cmpALIb imm) := ⟨Nat.le_of_ble_eq_true rfl, Nat.le_of_ble_eq_true rfl⟩
theorem cmpAXIv (imm : Sys2Proof.Word) : Statement (.cmpAXIv imm) := ⟨Nat.le_of_ble_eq_true rfl, Nat.le_of_ble_eq_true rfl⟩
theorem segDS : Statement (.segDS) := ⟨by decide, by decide⟩
theorem aas : Statement (.aas) := ⟨by decide, by decide⟩
theorem incReg (r : Sys2Proof.Reg16) : Statement (.incReg r) := ⟨Nat.le_of_ble_eq_true rfl, Nat.le_of_ble_eq_true rfl⟩
theorem decReg (r : Sys2Proof.Reg16) : Statement (.decReg r) := ⟨Nat.le_of_ble_eq_true rfl, Nat.le_of_ble_eq_true rfl⟩
theorem pushReg (r : Sys2Proof.Reg16) : Statement (.pushReg r) := ⟨Nat.le_of_ble_eq_true rfl, Nat.le_of_ble_eq_true rfl⟩
theorem popReg (r : Sys2Proof.Reg16) : Statement (.popReg r) := ⟨Nat.le_of_ble_eq_true rfl, Nat.le_of_ble_eq_true rfl⟩
theorem joJb (v : Sys2Proof.Enc) (disp : Sys2Proof.Byte) : Statement (.joJb v disp) := ⟨Nat.le_of_ble_eq_true rfl, Nat.le_of_ble_eq_true rfl⟩
theorem jnoJb (v : Sys2Proof.Enc) (disp : Sys2Proof.Byte) : Statement (.jnoJb v disp) := ⟨Nat.le_of_ble_eq_true rfl, Nat.le_of_ble_eq_true rfl⟩
theorem jbJb (v : Sys2Proof.Enc) (disp : Sys2Proof.Byte) : Statement (.jbJb v disp) := ⟨Nat.le_of_ble_eq_true rfl, Nat.le_of_ble_eq_true rfl⟩
theorem jnbJb (v : Sys2Proof.Enc) (disp : Sys2Proof.Byte) : Statement (.jnbJb v disp) := ⟨Nat.le_of_ble_eq_true rfl, Nat.le_of_ble_eq_true rfl⟩
theorem jzJb (v : Sys2Proof.Enc) (disp : Sys2Proof.Byte) : Statement (.jzJb v disp) := ⟨Nat.le_of_ble_eq_true rfl, Nat.le_of_ble_eq_true rfl⟩
theorem jnzJb (v : Sys2Proof.Enc) (disp : Sys2Proof.Byte) : Statement (.jnzJb v disp) := ⟨Nat.le_of_ble_eq_true rfl, Nat.le_of_ble_eq_true rfl⟩
theorem jbeJb (v : Sys2Proof.Enc) (disp : Sys2Proof.Byte) : Statement (.jbeJb v disp) := ⟨Nat.le_of_ble_eq_true rfl, Nat.le_of_ble_eq_true rfl⟩
theorem jnbeJb (v : Sys2Proof.Enc) (disp : Sys2Proof.Byte) : Statement (.jnbeJb v disp) := ⟨Nat.le_of_ble_eq_true rfl, Nat.le_of_ble_eq_true rfl⟩
theorem jsJb (v : Sys2Proof.Enc) (disp : Sys2Proof.Byte) : Statement (.jsJb v disp) := ⟨Nat.le_of_ble_eq_true rfl, Nat.le_of_ble_eq_true rfl⟩
theorem jnsJb (v : Sys2Proof.Enc) (disp : Sys2Proof.Byte) : Statement (.jnsJb v disp) := ⟨Nat.le_of_ble_eq_true rfl, Nat.le_of_ble_eq_true rfl⟩
theorem jpJb (v : Sys2Proof.Enc) (disp : Sys2Proof.Byte) : Statement (.jpJb v disp) := ⟨Nat.le_of_ble_eq_true rfl, Nat.le_of_ble_eq_true rfl⟩
theorem jnpJb (v : Sys2Proof.Enc) (disp : Sys2Proof.Byte) : Statement (.jnpJb v disp) := ⟨Nat.le_of_ble_eq_true rfl, Nat.le_of_ble_eq_true rfl⟩
theorem jlJb (v : Sys2Proof.Enc) (disp : Sys2Proof.Byte) : Statement (.jlJb v disp) := ⟨Nat.le_of_ble_eq_true rfl, Nat.le_of_ble_eq_true rfl⟩
theorem jnlJb (v : Sys2Proof.Enc) (disp : Sys2Proof.Byte) : Statement (.jnlJb v disp) := ⟨Nat.le_of_ble_eq_true rfl, Nat.le_of_ble_eq_true rfl⟩
theorem jleJb (v : Sys2Proof.Enc) (disp : Sys2Proof.Byte) : Statement (.jleJb v disp) := ⟨Nat.le_of_ble_eq_true rfl, Nat.le_of_ble_eq_true rfl⟩
theorem jnleJb (v : Sys2Proof.Enc) (disp : Sys2Proof.Byte) : Statement (.jnleJb v disp) := ⟨Nat.le_of_ble_eq_true rfl, Nat.le_of_ble_eq_true rfl⟩
theorem addEbIb (v : Sys2Proof.Enc) (e : Sys2Proof.Rm8) (imm : Sys2Proof.Byte) : Statement (.addEbIb v e imm) := ofE rfl (Nat.le_of_ble_eq_true rfl)
theorem orEbIb (v : Sys2Proof.Enc) (e : Sys2Proof.Rm8) (imm : Sys2Proof.Byte) : Statement (.orEbIb v e imm) := ofE rfl (Nat.le_of_ble_eq_true rfl)
theorem adcEbIb (v : Sys2Proof.Enc) (e : Sys2Proof.Rm8) (imm : Sys2Proof.Byte) : Statement (.adcEbIb v e imm) := ofE rfl (Nat.le_of_ble_eq_true rfl)
theorem sbbEbIb (v : Sys2Proof.Enc) (e : Sys2Proof.Rm8) (imm : Sys2Proof.Byte) : Statement (.sbbEbIb v e imm) := ofE rfl (Nat.le_of_ble_eq_true rfl)
theorem andEbIb (v : Sys2Proof.Enc) (e : Sys2Proof.Rm8) (imm : Sys2Proof.Byte) : Statement (.andEbIb v e imm) := ofE rfl (Nat.le_of_ble_eq_true rfl)
theorem subEbIb (v : Sys2Proof.Enc) (e : Sys2Proof.Rm8) (imm : Sys2Proof.Byte) : Statement (.subEbIb v e imm) := ofE rfl (Nat.le_of_ble_eq_true rfl)
theorem xorEbIb (v : Sys2Proof.Enc) (e : Sys2Proof.Rm8) (imm : Sys2Proof.Byte) : Statement (.xorEbIb v e imm) := ofE rfl (Nat.le_of_ble_eq_true rfl)
theorem cmpEbIb (v : Sys2Proof.Enc) (e : Sys2Proof.Rm8) (imm : Sys2Proof.Byte) : Statement (.cmpEbIb v e imm) := ofE rfl (Nat.le_of_ble_eq_true rfl)
theorem addEvIv (e : Sys2Proof.Rm16) (imm : Sys2Proof.Word) : Statement (.addEvIv e imm) := ofE rfl (Nat.le_of_ble_eq_true rfl)
theorem orEvIv (e : Sys2Proof.Rm16) (imm : Sys2Proof.Word) : Statement (.orEvIv e imm) := ofE rfl (Nat.le_of_ble_eq_true rfl)
theorem adcEvIv (e : Sys2Proof.Rm16) (imm : Sys2Proof.Word) : Statement (.adcEvIv e imm) := ofE rfl (Nat.le_of_ble_eq_true rfl)
theorem sbbEvIv (e : Sys2Proof.Rm16) (imm : Sys2Proof.Word) : Statement (.sbbEvIv e imm) := ofE rfl (Nat.le_of_ble_eq_true rfl)
theorem andEvIv (e : Sys2Proof.Rm16) (imm : Sys2Proof.Word) : Statement (.andEvIv e imm) := ofE rfl (Nat.le_of_ble_eq_true rfl)
theorem subEvIv (e : Sys2Proof.Rm16) (imm : Sys2Proof.Word) : Statement (.subEvIv e imm) := ofE rfl (Nat.le_of_ble_eq_true rfl)
theorem xorEvIv (e : Sys2Proof.Rm16) (imm : Sys2Proof.Word) : Statement (.xorEvIv e imm) := ofE rfl (Nat.le_of_ble_eq_true rfl)
theorem cmpEvIv (e : Sys2Proof.Rm16) (imm : Sys2Proof.Word) : Statement (.cmpEvIv e imm) := ofE rfl (Nat.le_of_ble_eq_true rfl)
theorem addEvIb (e : Sys2Proof.Rm16) (imm : Sys2Proof.Byte) : Statement (.addEvIb e imm) := ofE rfl (Nat.le_of_ble_eq_true rfl)
theorem orEvIb (e : Sys2Proof.Rm16) (imm : Sys2Proof.Byte) : Statement (.orEvIb e imm) := ofE rfl (Nat.le_of_ble_eq_true rfl)
theorem adcEvIb (e : Sys2Proof.Rm16) (imm : Sys2Proof.Byte) : Statement (.adcEvIb e imm) := ofE rfl (Nat.le_of_ble_eq_true rfl)
theorem sbbEvIb (e : Sys2Proof.Rm16) (imm : Sys2Proof.Byte) : Statement (.sbbEvIb e imm) := ofE rfl (Nat.le_of_ble_eq_true rfl)
theorem andEvIb (e : Sys2Proof.Rm16) (imm : Sys2Proof.Byte) : Statement (.andEvIb e imm) := ofE rfl (Nat.le_of_ble_eq_true rfl)
theorem subEvIb (e : Sys2Proof.Rm16) (imm : Sys2Proof.Byte) : Statement (.subEvIb e imm) := ofE rfl (Nat.le_of_ble_eq_true rfl)
theorem xorEvIb (e : Sys2Proof.Rm16) (imm : Sys2Proof.Byte) : Statement (.xorEvIb e imm) := ofE rfl (Nat.le_of_ble_eq_true rfl)
theorem cmpEvIb (e : Sys2Proof.Rm16) (imm : Sys2Proof.Byte) : Statement (.cmpEvIb e imm) := ofE rfl (Nat.le_of_ble_eq_true rfl)
theorem testEbGb (e : Sys2Proof.Rm8) (g : Sys2Proof.Reg8) : Statement (.testEbGb e g) := ofE0 rfl
theorem testEvGv (e : Sys2Proof.Rm16) (g : Sys2Proof.Reg16) : Statement (.testEvGv e g) := ofE0 rfl
theorem xchgEbGb (e : Sys2Proof.Rm8) (g : Sys2Proof.Reg8) : Statement (.xchgEbGb e g) := ofE0 rfl
theorem xchgEvGv (e : Sys2Proof.Rm16) (g : Sys2Proof.Reg16) : Statement (.xchgEvGv e g) := ofE0 rfl
theorem movEbGb (e : Sys2Proof.Rm8) (g : Sys2Proof.Reg8) : Statement (.movEbGb e g) := ofE0 rfl
theorem movEvGv (e : Sys2Proof.Rm16) (g : Sys2Proof.Reg16) : Statement (.movEvGv e g) := ofE0 rfl
theorem movGbEb (g : Sys2Proof.Reg8) (e : Sys2Proof.Rm8) : Statement (.movGbEb g e) := ofE0 rfl
theorem movGvEv (g : Sys2Proof.Reg16) (e : Sys2Proof.Rm16) : Statement (.movGvEv g e) := ofE0 rfl
theorem movEwSw (v : Sys2Proof.Enc) (s : Sys2Proof.SReg) (e : Sys2Proof.Rm16) : Statement (.movEwSw v s e) := ofE0 rfl
theorem leaGvM (g : Sys2Proof.Reg16) (e : Sys2Proof.Rm16) : Statement (.leaGvM g e) := ofE0 rfl
theorem movSwEw (v : Sys2Proof.Enc) (s : Sys2Proof.SReg) (e : Sys2Proof.Rm16) : Statement (.movSwEw v s e) := ofE0 rfl
theorem popEv (reg : BitVec 3) (e : Sys2Proof.Rm16) : Statement (.popEv reg e) := ofE0 rfl
theorem nop : Statement (.nop) := ⟨by decide, by decide⟩
theorem xchgAX (r : Sys2Proof.Reg16) : Statement (.xchgAX r) := ⟨Nat.le_of_ble_eq_true rfl, Nat.le_of_ble_eq_true rfl⟩
theorem cbw : Statement (.cbw) := ⟨by decide, by decide⟩
theorem cwd : Statement (.cwd) := ⟨by decide, by decide⟩
theorem callAp (off : Sys2Proof.Word) (sel : Sys2Proof.Word) : Statement (.callAp off sel) := ⟨Nat.le_of_ble_eq_true rfl, Nat.le_of_ble_eq_true rfl⟩
theorem wait : Statement (.wait) := ⟨by decide, by decide⟩
theorem pushf : Statement (.pushf) := ⟨by decide, by decide⟩
theorem popf : Statement (.popf) := ⟨by decide, by decide⟩
theorem sahf : Statement (.sahf) := ⟨by decide, by decide⟩
theorem lahf : Statement (.lahf) := ⟨by decide, by decide⟩
theorem movALOb (off : Sys2Proof.Word) : Statement (.movALOb off) := ⟨Nat.le_of_ble_eq_true rfl, Nat.le_of_ble_eq_true rfl⟩
theorem movAXOv (off : Sys2Proof.Word) : Statement (.movAXOv off) := ⟨Nat.le_of_ble_eq_true rfl, Nat.le_of_ble_eq_true rfl⟩
theorem movObAL (off : Sys2Proof.Word) : Statement (.movObAL off) := ⟨Nat.le_of_ble_eq_true rfl, Nat.le_of_ble_eq_true rfl⟩
theorem movOvAX (off : Sys2Proof.Word) : Statement (.movOvAX off) := ⟨Nat.le_of_ble_eq_true rfl, Nat.le_of_ble_eq_true rfl⟩
theorem movsb : Statement (.movsb) := ⟨by decide, by decide⟩
theorem movsw : Statement (.movsw) := ⟨by decide, by decide⟩
theorem cmpsb : Statement (.cmpsb) := ⟨by decide, by decide⟩
theorem cmpsw : Statement (.cmpsw) := ⟨by decide, by decide⟩
theorem testALIb (imm : Sys2Proof.Byte) : Statement (.testALIb imm) := ⟨Nat.le_of_ble_eq_true rfl, Nat.le_of_ble_eq_true rfl⟩
theorem testAXIv (imm : Sys2Proof.Word) : Statement (.testAXIv imm) := ⟨Nat.le_of_ble_eq_true rfl, Nat.le_of_ble_eq_true rfl⟩
theorem stosb : Statement (.stosb) := ⟨by decide, by decide⟩
theorem stosw : Statement (.stosw) := ⟨by decide, by decide⟩
theorem lodsb : Statement (.lodsb) := ⟨by decide, by decide⟩
theorem lodsw : Statement (.lodsw) := ⟨by decide, by decide⟩
theorem scasb : Statement (.scasb) := ⟨by decide, by decide⟩
theorem scasw : Statement (.scasw) := ⟨by decide, by decide⟩
theorem movRegIb (r : Sys2Proof.Reg8) (imm : Sys2Proof.Byte) : Statement (.movRegIb r imm) := ⟨Nat.le_of_ble_eq_true rfl, Nat.le_of_ble_eq_true rfl⟩
theorem movRegIv (r : Sys2Proof.Reg16) (imm : Sys2Proof.Word) : Statement (.movRegIv r imm) := ⟨Nat.le_of_ble_eq_true rfl, Nat.le_of_ble_eq_true rfl⟩
theorem retIw (v : Sys2Proof.Enc) (n : Sys2Proof.Word) : Statement (.retIw v n) := ⟨Nat.le_of_ble_eq_true rfl, Nat.le_of_ble_eq_true rfl⟩
theorem ret (v : Sys2Proof.Enc) : Statement (.ret v) := ⟨Nat.le_of_ble_eq_true rfl, Nat.le_of_ble_eq_true rfl⟩
theorem lesGvMp (g : Sys2Proof.Reg16) (e : Sys2Proof.Rm16) : Statement (.lesGvMp g e) := ofE0 rfl
theorem ldsGvMp (g : Sys2Proof.Reg16) (e : Sys2Proof.Rm16) : Statement (.ldsGvMp g e) := ofE0 rfl
theorem movEbIb (reg : BitVec 3) (e : Sys2Proof.Rm8) (imm : Sys2Proof.Byte) : Statement (.movEbIb reg e imm) := ofE rfl (Nat.le_of_ble_eq_true rfl)
theorem movEvIv (reg : BitVec 3) (e : Sys2Proof.Rm16) (imm : Sys2Proof.Word) : Statement (.movEvIv reg e imm) := ofE rfl (Nat.le_of_ble_eq_true rfl)
theorem retfIw (v : Sys2Proof.Enc) (n : Sys2Proof.Word) : Statement (.retfIw v n) := ⟨Nat.le_of_ble_eq_true rfl, Nat.le_of_ble_eq_true rfl⟩
theorem retf (v : Sys2Proof.Enc) : Statement (.retf v) := ⟨Nat.le_of_ble_eq_true rfl, Nat.le_of_ble_eq_true rfl⟩
theorem int3 : Statement (.int3) := ⟨by decide, by decide⟩
theorem intIb (n : Sys2Proof.Byte) : Statement (.intIb n) := ⟨Nat.le_of_ble_eq_true rfl, Nat.le_of_ble_eq_true rfl⟩
theorem into : Statement (.into) := ⟨by decide, by decide⟩
theorem iret : Statement (.iret) := ⟨by decide, by decide⟩
theorem rolEb (c : Sys2Proof.Count) (e : Sys2Proof.Rm8) : Statement (.rolEb c e) := ofE0 rfl
theorem rorEb (c : Sys2Proof.Count) (e : Sys2Proof.Rm8) : Statement (.rorEb c e) := ofE0 rfl
theorem rclEb (c : Sys2Proof.Count) (e : Sys2Proof.Rm8) : Statement (.rclEb c e) := ofE0 rfl
theorem rcrEb (c : Sys2Proof.Count) (e : Sys2Proof.Rm8) : Statement (.rcrEb c e) := ofE0 rfl
theorem shlEb (c : Sys2Proof.Count) (e : Sys2Proof.Rm8) : Statement (.shlEb c e) := ofE0 rfl
theorem shrEb (c : Sys2Proof.Count) (e : Sys2Proof.Rm8) : Statement (.shrEb c e) := ofE0 rfl
theorem setmoEb (e : Sys2Proof.Rm8) : Statement (.setmoEb e) := ofE0 rfl
theorem sarEb (c : Sys2Proof.Count) (e : Sys2Proof.Rm8) : Statement (.sarEb c e) := ofE0 rfl
theorem rolEv (c : Sys2Proof.Count) (e : Sys2Proof.Rm16) : Statement (.rolEv c e) := ofE0 rfl
theorem rorEv (c : Sys2Proof.Count) (e : Sys2Proof.Rm16) : Statement (.rorEv c e) := ofE0 rfl
theorem rclEv (c : Sys2Proof.Count) (e : Sys2Proof.Rm16) : Statement (.rclEv c e) := ofE0 rfl
theorem rcrEv (c : Sys2Proof.Count) (e : Sys2Proof.Rm16) : Statement (.rcrEv c e) := ofE0 rfl
theorem shlEv (c : Sys2Proof.Count) (e : Sys2Proof.Rm16) : Statement (.shlEv c e) := ofE0 rfl
theorem shrEv (c : Sys2Proof.Count) (e : Sys2Proof.Rm16) : Statement (.shrEv c e) := ofE0 rfl
theorem setmoEv (e : Sys2Proof.Rm16) : Statement (.setmoEv e) := ofE0 rfl
theorem sarEv (c : Sys2Proof.Count) (e : Sys2Proof.Rm16) : Statement (.sarEv c e) := ofE0 rfl
theorem setmocEb (e : Sys2Proof.Rm8) : Statement (.setmocEb e) := ofE0 rfl
theorem setmocEv (e : Sys2Proof.Rm16) : Statement (.setmocEv e) := ofE0 rfl
theorem aam (n : Sys2Proof.Byte) : Statement (.aam n) := ⟨Nat.le_of_ble_eq_true rfl, Nat.le_of_ble_eq_true rfl⟩
theorem aad (n : Sys2Proof.Byte) : Statement (.aad n) := ⟨Nat.le_of_ble_eq_true rfl, Nat.le_of_ble_eq_true rfl⟩
theorem salc : Statement (.salc) := ⟨by decide, by decide⟩
theorem xlat : Statement (.xlat) := ⟨by decide, by decide⟩
theorem esc (n : BitVec 6) (e : Sys2Proof.Rm16) : Statement (.esc n e) := ofE0 rfl
theorem loopneJb (disp : Sys2Proof.Byte) : Statement (.loopneJb disp) := ⟨Nat.le_of_ble_eq_true rfl, Nat.le_of_ble_eq_true rfl⟩
theorem loopeJb (disp : Sys2Proof.Byte) : Statement (.loopeJb disp) := ⟨Nat.le_of_ble_eq_true rfl, Nat.le_of_ble_eq_true rfl⟩
theorem loopJb (disp : Sys2Proof.Byte) : Statement (.loopJb disp) := ⟨Nat.le_of_ble_eq_true rfl, Nat.le_of_ble_eq_true rfl⟩
theorem jcxzJb (disp : Sys2Proof.Byte) : Statement (.jcxzJb disp) := ⟨Nat.le_of_ble_eq_true rfl, Nat.le_of_ble_eq_true rfl⟩
theorem inALIb (port : Sys2Proof.Byte) : Statement (.inALIb port) := ⟨Nat.le_of_ble_eq_true rfl, Nat.le_of_ble_eq_true rfl⟩
theorem inAXIb (port : Sys2Proof.Byte) : Statement (.inAXIb port) := ⟨Nat.le_of_ble_eq_true rfl, Nat.le_of_ble_eq_true rfl⟩
theorem outIbAL (port : Sys2Proof.Byte) : Statement (.outIbAL port) := ⟨Nat.le_of_ble_eq_true rfl, Nat.le_of_ble_eq_true rfl⟩
theorem outIbAX (port : Sys2Proof.Byte) : Statement (.outIbAX port) := ⟨Nat.le_of_ble_eq_true rfl, Nat.le_of_ble_eq_true rfl⟩
theorem callJv (disp : Sys2Proof.Word) : Statement (.callJv disp) := ⟨Nat.le_of_ble_eq_true rfl, Nat.le_of_ble_eq_true rfl⟩
theorem jmpJv (disp : Sys2Proof.Word) : Statement (.jmpJv disp) := ⟨Nat.le_of_ble_eq_true rfl, Nat.le_of_ble_eq_true rfl⟩
theorem jmpAp (off : Sys2Proof.Word) (sel : Sys2Proof.Word) : Statement (.jmpAp off sel) := ⟨Nat.le_of_ble_eq_true rfl, Nat.le_of_ble_eq_true rfl⟩
theorem jmpJb (disp : Sys2Proof.Byte) : Statement (.jmpJb disp) := ⟨Nat.le_of_ble_eq_true rfl, Nat.le_of_ble_eq_true rfl⟩
theorem inALDX : Statement (.inALDX) := ⟨by decide, by decide⟩
theorem inAXDX : Statement (.inAXDX) := ⟨by decide, by decide⟩
theorem outDXAL : Statement (.outDXAL) := ⟨by decide, by decide⟩
theorem outDXAX : Statement (.outDXAX) := ⟨by decide, by decide⟩
theorem lock (v : Sys2Proof.Enc) : Statement (.lock v) := ⟨Nat.le_of_ble_eq_true rfl, Nat.le_of_ble_eq_true rfl⟩
theorem repne : Statement (.repne) := ⟨by decide, by decide⟩
theorem rep : Statement (.rep) := ⟨by decide, by decide⟩
theorem hlt : Statement (.hlt) := ⟨by decide, by decide⟩
theorem cmc : Statement (.cmc) := ⟨by decide, by decide⟩
theorem testEbIb (v : Sys2Proof.Enc) (e : Sys2Proof.Rm8) (imm : Sys2Proof.Byte) : Statement (.testEbIb v e imm) := ofE rfl (Nat.le_of_ble_eq_true rfl)
theorem notEb (e : Sys2Proof.Rm8) : Statement (.notEb e) := ofE0 rfl
theorem negEb (e : Sys2Proof.Rm8) : Statement (.negEb e) := ofE0 rfl
theorem mulEb (e : Sys2Proof.Rm8) : Statement (.mulEb e) := ofE0 rfl
theorem imulEb (e : Sys2Proof.Rm8) : Statement (.imulEb e) := ofE0 rfl
theorem divEb (e : Sys2Proof.Rm8) : Statement (.divEb e) := ofE0 rfl
theorem idivEb (e : Sys2Proof.Rm8) : Statement (.idivEb e) := ofE0 rfl
theorem testEvIv (v : Sys2Proof.Enc) (e : Sys2Proof.Rm16) (imm : Sys2Proof.Word) : Statement (.testEvIv v e imm) := ofE rfl (Nat.le_of_ble_eq_true rfl)
theorem notEv (e : Sys2Proof.Rm16) : Statement (.notEv e) := ofE0 rfl
theorem negEv (e : Sys2Proof.Rm16) : Statement (.negEv e) := ofE0 rfl
theorem mulEv (e : Sys2Proof.Rm16) : Statement (.mulEv e) := ofE0 rfl
theorem imulEv (e : Sys2Proof.Rm16) : Statement (.imulEv e) := ofE0 rfl
theorem divEv (e : Sys2Proof.Rm16) : Statement (.divEv e) := ofE0 rfl
theorem idivEv (e : Sys2Proof.Rm16) : Statement (.idivEv e) := ofE0 rfl
theorem clc : Statement (.clc) := ⟨by decide, by decide⟩
theorem stc : Statement (.stc) := ⟨by decide, by decide⟩
theorem cli : Statement (.cli) := ⟨by decide, by decide⟩
theorem sti : Statement (.sti) := ⟨by decide, by decide⟩
theorem cld : Statement (.cld) := ⟨by decide, by decide⟩
theorem std : Statement (.std) := ⟨by decide, by decide⟩
theorem incEb (e : Sys2Proof.Rm8) : Statement (.incEb e) := ofE0 rfl
theorem decEb (e : Sys2Proof.Rm8) : Statement (.decEb e) := ofE0 rfl
theorem fe2 (e : Sys2Proof.Rm8) : Statement (.fe2 e) := ofE0 rfl
theorem fe3 (e : Sys2Proof.Rm8) : Statement (.fe3 e) := ofE0 rfl
theorem fe4 (e : Sys2Proof.Rm8) : Statement (.fe4 e) := ofE0 rfl
theorem fe5 (e : Sys2Proof.Rm8) : Statement (.fe5 e) := ofE0 rfl
theorem fe6 (e : Sys2Proof.Rm8) : Statement (.fe6 e) := ofE0 rfl
theorem fe7 (e : Sys2Proof.Rm8) : Statement (.fe7 e) := ofE0 rfl
theorem incEv (e : Sys2Proof.Rm16) : Statement (.incEv e) := ofE0 rfl
theorem decEv (e : Sys2Proof.Rm16) : Statement (.decEv e) := ofE0 rfl
theorem callEv (e : Sys2Proof.Rm16) : Statement (.callEv e) := ofE0 rfl
theorem callMp (e : Sys2Proof.Rm16) : Statement (.callMp e) := ofE0 rfl
theorem jmpEv (e : Sys2Proof.Rm16) : Statement (.jmpEv e) := ofE0 rfl
theorem jmpMp (e : Sys2Proof.Rm16) : Statement (.jmpMp e) := ofE0 rfl
theorem pushEv (v : Sys2Proof.Enc) (e : Sys2Proof.Rm16) : Statement (.pushEv v e) := ofE0 rfl

end Sys2Proof.Laws.EncodeLength
end

