-- ==== Sys2Proof/Tests/Slice0.lean ====
section
/-!
SUPPORT. The model's own tests. First, terms that WellFormed refuses. Then, one word for every row of the opcode table, written out from the table's bits.
Then single steps, whose expected results are the test vectors of spec/ (V<n>; the few without a number are worked out by hand from the rule named). Last,
for every statement with hypotheses, concrete states and operands that meet them, clause by clause.
-/

open Sys2Proof
open Sys2Proof.Machine

namespace Sys2Proof.Tests

set_option Elab.async false

/-! ## WellFormed refuses -/

/-- R148: `[BP]` without a displacement has no encoding. -/
theorem test_wf_bp : (Instr.movGbEb .al (.mem (.nodisp .bp))).wf = false := by decide

/-- R148: with a displacement of 0 it has one. -/
theorem test_wf_bp0 : (Instr.movGbEb .al (.mem (.disp8 .bp 0))).wf = true := by decide

/-- R213, R402: 90 is NOP, not XCHG AX,AX. -/
theorem test_wf_xchg : (Instr.xchgAX .ax).wf = false := by decide

/-! ## Decoding, a word for each row of the table -/

/-- Each byte list decodes to the instruction beside it, whole. -/
def decodes (l : List (List Byte × Instr)) : Bool := l.all fun p => decide (decode p.1 = .ok p.2 [])

/-- A byte list that ends inside an instruction is rejected, by name (R153). -/
theorem test_decode_truncated : decode [0x81#8, 0x46#8, 0xFE#8, 0x34#8] = .reject .truncated := by decide


/-- Opcodes 00 to 0F. -/
theorem test_decode_0x : decodes [
    ([0b0000_0000#8, 0b01_001_110#8, 0xFE#8], .addEbGb (.mem (.disp8 .bp 0xFE#8)) .cl),
    ([0b0000_0001#8, 0b00_100_110#8, 0x34#8, 0x12#8], .addEvGv (.mem (.direct 0x1234#16)) .sp), ([0b0000_0010#8, 0b11_111_111#8], .addGbEb .bh (.reg .bh)),
    ([0b0000_0011#8, 0b01_010_110#8, 0xFE#8], .addGvEv .dx (.mem (.disp8 .bp 0xFE#8))), ([0b0000_0100#8, 0x80#8], .addALIb 0x80#8),
    ([0b0000_0101#8, 0x01#8, 0x80#8], .addAXIv 0x8001#16), ([0b0000_0110#8], .pushSreg .es), ([0b0000_0111#8], .popSreg .es),
    ([0b0000_1000#8, 0b00_101_110#8, 0x34#8, 0x12#8], .orEbGb (.mem (.direct 0x1234#16)) .ch), ([0b0000_1001#8, 0b11_000_110#8], .orEvGv (.reg .si) .ax),
    ([0b0000_1010#8, 0b01_011_110#8, 0xFE#8], .orGbEb .bl (.mem (.disp8 .bp 0xFE#8))),
    ([0b0000_1011#8, 0b00_110_110#8, 0x34#8, 0x12#8], .orGvEv .si (.mem (.direct 0x1234#16))), ([0b0000_1100#8, 0x80#8], .orALIb 0x80#8),
    ([0b0000_1101#8, 0x01#8, 0x80#8], .orAXIv 0x8001#16), ([0b0000_1110#8], .pushSreg .cs), ([0b0000_1111#8], .popSreg .cs)] = true := by decide

/-- Opcodes 10 to 1F. -/
theorem test_decode_1x : decodes [
    ([0b0001_0000#8, 0b11_001_101#8], .adcEbGb (.reg .ch) .cl), ([0b0001_0001#8, 0b01_100_110#8, 0xFE#8], .adcEvGv (.mem (.disp8 .bp 0xFE#8)) .sp),
    ([0b0001_0010#8, 0b00_111_110#8, 0x34#8, 0x12#8], .adcGbEb .bh (.mem (.direct 0x1234#16))), ([0b0001_0011#8, 0b11_010_100#8], .adcGvEv .dx (.reg .sp)),
    ([0b0001_0100#8, 0x80#8], .adcALIb 0x80#8), ([0b0001_0101#8, 0x01#8, 0x80#8], .adcAXIv 0x8001#16), ([0b0001_0110#8], .pushSreg .ss),
    ([0b0001_0111#8], .popSreg .ss), ([0b0001_1000#8, 0b01_101_110#8, 0xFE#8], .sbbEbGb (.mem (.disp8 .bp 0xFE#8)) .ch),
    ([0b0001_1001#8, 0b00_000_110#8, 0x34#8, 0x12#8], .sbbEvGv (.mem (.direct 0x1234#16)) .ax), ([0b0001_1010#8, 0b11_011_011#8], .sbbGbEb .bl (.reg .bl)),
    ([0b0001_1011#8, 0b01_110_110#8, 0xFE#8], .sbbGvEv .si (.mem (.disp8 .bp 0xFE#8))), ([0b0001_1100#8, 0x80#8], .sbbALIb 0x80#8),
    ([0b0001_1101#8, 0x01#8, 0x80#8], .sbbAXIv 0x8001#16), ([0b0001_1110#8], .pushSreg .ds), ([0b0001_1111#8], .popSreg .ds)] = true := by decide

/-- Opcodes 20 to 2F. -/
theorem test_decode_2x : decodes [
    ([0b0010_0000#8, 0b00_001_110#8, 0x34#8, 0x12#8], .andEbGb (.mem (.direct 0x1234#16)) .cl), ([0b0010_0001#8, 0b11_100_010#8], .andEvGv (.reg .dx) .sp),
    ([0b0010_0010#8, 0b01_111_110#8, 0xFE#8], .andGbEb .bh (.mem (.disp8 .bp 0xFE#8))),
    ([0b0010_0011#8, 0b00_010_110#8, 0x34#8, 0x12#8], .andGvEv .dx (.mem (.direct 0x1234#16))), ([0b0010_0100#8, 0x80#8], .andALIb 0x80#8),
    ([0b0010_0101#8, 0x01#8, 0x80#8], .andAXIv 0x8001#16), ([0b0010_0110#8], .segES), ([0b0010_0111#8], .daa),
    ([0b0010_1000#8, 0b11_101_001#8], .subEbGb (.reg .cl) .ch), ([0b0010_1001#8, 0b01_000_110#8, 0xFE#8], .subEvGv (.mem (.disp8 .bp 0xFE#8)) .ax),
    ([0b0010_1010#8, 0b00_011_110#8, 0x34#8, 0x12#8], .subGbEb .bl (.mem (.direct 0x1234#16))), ([0b0010_1011#8, 0b11_110_000#8], .subGvEv .si (.reg .ax)),
    ([0b0010_1100#8, 0x80#8], .subALIb 0x80#8), ([0b0010_1101#8, 0x01#8, 0x80#8], .subAXIv 0x8001#16), ([0b0010_1110#8], .segCS), ([0b0010_1111#8], .das)] = true := by decide

/-- Opcodes 30 to 3F. -/
theorem test_decode_3x : decodes [
    ([0b0011_0000#8, 0b01_001_110#8, 0xFE#8], .xorEbGb (.mem (.disp8 .bp 0xFE#8)) .cl),
    ([0b0011_0001#8, 0b00_100_110#8, 0x34#8, 0x12#8], .xorEvGv (.mem (.direct 0x1234#16)) .sp), ([0b0011_0010#8, 0b11_111_111#8], .xorGbEb .bh (.reg .bh)),
    ([0b0011_0011#8, 0b01_010_110#8, 0xFE#8], .xorGvEv .dx (.mem (.disp8 .bp 0xFE#8))), ([0b0011_0100#8, 0x80#8], .xorALIb 0x80#8),
    ([0b0011_0101#8, 0x01#8, 0x80#8], .xorAXIv 0x8001#16), ([0b0011_0110#8], .segSS), ([0b0011_0111#8], .aaa),
    ([0b0011_1000#8, 0b00_101_110#8, 0x34#8, 0x12#8], .cmpEbGb (.mem (.direct 0x1234#16)) .ch), ([0b0011_1001#8, 0b11_000_110#8], .cmpEvGv (.reg .si) .ax),
    ([0b0011_1010#8, 0b01_011_110#8, 0xFE#8], .cmpGbEb .bl (.mem (.disp8 .bp 0xFE#8))),
    ([0b0011_1011#8, 0b00_110_110#8, 0x34#8, 0x12#8], .cmpGvEv .si (.mem (.direct 0x1234#16))), ([0b0011_1100#8, 0x80#8], .cmpALIb 0x80#8),
    ([0b0011_1101#8, 0x01#8, 0x80#8], .cmpAXIv 0x8001#16), ([0b0011_1110#8], .segDS), ([0b0011_1111#8], .aas)] = true := by decide

/-- Opcodes 40 to 4F. -/
theorem test_decode_4x : decodes [
    ([0b0100_0000#8], .incReg .ax), ([0b0100_0001#8], .incReg .cx), ([0b0100_0010#8], .incReg .dx), ([0b0100_0011#8], .incReg .bx),
    ([0b0100_0100#8], .incReg .sp), ([0b0100_0101#8], .incReg .bp), ([0b0100_0110#8], .incReg .si), ([0b0100_0111#8], .incReg .di),
    ([0b0100_1000#8], .decReg .ax), ([0b0100_1001#8], .decReg .cx), ([0b0100_1010#8], .decReg .dx), ([0b0100_1011#8], .decReg .bx),
    ([0b0100_1100#8], .decReg .sp), ([0b0100_1101#8], .decReg .bp), ([0b0100_1110#8], .decReg .si), ([0b0100_1111#8], .decReg .di)] = true := by decide

/-- Opcodes 50 to 5F. -/
theorem test_decode_5x : decodes [
    ([0b0101_0000#8], .pushReg .ax), ([0b0101_0001#8], .pushReg .cx), ([0b0101_0010#8], .pushReg .dx), ([0b0101_0011#8], .pushReg .bx),
    ([0b0101_0100#8], .pushReg .sp), ([0b0101_0101#8], .pushReg .bp), ([0b0101_0110#8], .pushReg .si), ([0b0101_0111#8], .pushReg .di),
    ([0b0101_1000#8], .popReg .ax), ([0b0101_1001#8], .popReg .cx), ([0b0101_1010#8], .popReg .dx), ([0b0101_1011#8], .popReg .bx),
    ([0b0101_1100#8], .popReg .sp), ([0b0101_1101#8], .popReg .bp), ([0b0101_1110#8], .popReg .si), ([0b0101_1111#8], .popReg .di)] = true := by decide

/-- Opcodes 60 to 6F. -/
theorem test_decode_6x : decodes [
    ([0b0110_0000#8, 0x80#8], .joJb .second 0x80#8), ([0b0110_0001#8, 0x80#8], .jnoJb .second 0x80#8), ([0b0110_0010#8, 0x80#8], .jbJb .second 0x80#8),
    ([0b0110_0011#8, 0x80#8], .jnbJb .second 0x80#8), ([0b0110_0100#8, 0x80#8], .jzJb .second 0x80#8), ([0b0110_0101#8, 0x80#8], .jnzJb .second 0x80#8),
    ([0b0110_0110#8, 0x80#8], .jbeJb .second 0x80#8), ([0b0110_0111#8, 0x80#8], .jnbeJb .second 0x80#8), ([0b0110_1000#8, 0x80#8], .jsJb .second 0x80#8),
    ([0b0110_1001#8, 0x80#8], .jnsJb .second 0x80#8), ([0b0110_1010#8, 0x80#8], .jpJb .second 0x80#8), ([0b0110_1011#8, 0x80#8], .jnpJb .second 0x80#8),
    ([0b0110_1100#8, 0x80#8], .jlJb .second 0x80#8), ([0b0110_1101#8, 0x80#8], .jnlJb .second 0x80#8), ([0b0110_1110#8, 0x80#8], .jleJb .second 0x80#8),
    ([0b0110_1111#8, 0x80#8], .jnleJb .second 0x80#8)] = true := by decide

/-- Opcodes 70 to 7F. -/
theorem test_decode_7x : decodes [
    ([0b0111_0000#8, 0x80#8], .joJb .main 0x80#8), ([0b0111_0001#8, 0x80#8], .jnoJb .main 0x80#8), ([0b0111_0010#8, 0x80#8], .jbJb .main 0x80#8),
    ([0b0111_0011#8, 0x80#8], .jnbJb .main 0x80#8), ([0b0111_0100#8, 0x80#8], .jzJb .main 0x80#8), ([0b0111_0101#8, 0x80#8], .jnzJb .main 0x80#8),
    ([0b0111_0110#8, 0x80#8], .jbeJb .main 0x80#8), ([0b0111_0111#8, 0x80#8], .jnbeJb .main 0x80#8), ([0b0111_1000#8, 0x80#8], .jsJb .main 0x80#8),
    ([0b0111_1001#8, 0x80#8], .jnsJb .main 0x80#8), ([0b0111_1010#8, 0x80#8], .jpJb .main 0x80#8), ([0b0111_1011#8, 0x80#8], .jnpJb .main 0x80#8),
    ([0b0111_1100#8, 0x80#8], .jlJb .main 0x80#8), ([0b0111_1101#8, 0x80#8], .jnlJb .main 0x80#8), ([0b0111_1110#8, 0x80#8], .jleJb .main 0x80#8),
    ([0b0111_1111#8, 0x80#8], .jnleJb .main 0x80#8)] = true := by decide

/-- Opcodes 80 to 8F. -/
theorem test_decode_8x_1 : decodes [
    ([0b1000_0000#8, 0b11_000_101#8, 0x80#8], .addEbIb .main (.reg .ch) 0x80#8),
    ([0b1000_0000#8, 0b01_001_110#8, 0xFE#8, 0x80#8], .orEbIb .main (.mem (.disp8 .bp 0xFE#8)) 0x80#8),
    ([0b1000_0000#8, 0b00_010_110#8, 0x34#8, 0x12#8, 0x80#8], .adcEbIb .main (.mem (.direct 0x1234#16)) 0x80#8),
    ([0b1000_0000#8, 0b11_011_100#8, 0x80#8], .sbbEbIb .main (.reg .ah) 0x80#8),
    ([0b1000_0000#8, 0b01_100_110#8, 0xFE#8, 0x80#8], .andEbIb .main (.mem (.disp8 .bp 0xFE#8)) 0x80#8),
    ([0b1000_0000#8, 0b00_101_110#8, 0x34#8, 0x12#8, 0x80#8], .subEbIb .main (.mem (.direct 0x1234#16)) 0x80#8),
    ([0b1000_0000#8, 0b11_110_011#8, 0x80#8], .xorEbIb .main (.reg .bl) 0x80#8),
    ([0b1000_0000#8, 0b01_111_110#8, 0xFE#8, 0x80#8], .cmpEbIb .main (.mem (.disp8 .bp 0xFE#8)) 0x80#8),
    ([0b1000_0001#8, 0b00_000_110#8, 0x34#8, 0x12#8, 0x01#8, 0x80#8], .addEvIv (.mem (.direct 0x1234#16)) 0x8001#16),
    ([0b1000_0001#8, 0b11_001_010#8, 0x01#8, 0x80#8], .orEvIv (.reg .dx) 0x8001#16),
    ([0b1000_0001#8, 0b01_010_110#8, 0xFE#8, 0x01#8, 0x80#8], .adcEvIv (.mem (.disp8 .bp 0xFE#8)) 0x8001#16),
    ([0b1000_0001#8, 0b00_011_110#8, 0x34#8, 0x12#8, 0x01#8, 0x80#8], .sbbEvIv (.mem (.direct 0x1234#16)) 0x8001#16),
    ([0b1000_0001#8, 0b11_100_001#8, 0x01#8, 0x80#8], .andEvIv (.reg .cx) 0x8001#16),
    ([0b1000_0001#8, 0b01_101_110#8, 0xFE#8, 0x01#8, 0x80#8], .subEvIv (.mem (.disp8 .bp 0xFE#8)) 0x8001#16),
    ([0b1000_0001#8, 0b00_110_110#8, 0x34#8, 0x12#8, 0x01#8, 0x80#8], .xorEvIv (.mem (.direct 0x1234#16)) 0x8001#16),
    ([0b1000_0001#8, 0b11_111_000#8, 0x01#8, 0x80#8], .cmpEvIv (.reg .ax) 0x8001#16),
    ([0b1000_0010#8, 0b01_000_110#8, 0xFE#8, 0x80#8], .addEbIb .second (.mem (.disp8 .bp 0xFE#8)) 0x80#8),
    ([0b1000_0010#8, 0b00_001_110#8, 0x34#8, 0x12#8, 0x80#8], .orEbIb .second (.mem (.direct 0x1234#16)) 0x80#8),
    ([0b1000_0010#8, 0b11_010_111#8, 0x80#8], .adcEbIb .second (.reg .bh) 0x80#8),
    ([0b1000_0010#8, 0b01_011_110#8, 0xFE#8, 0x80#8], .sbbEbIb .second (.mem (.disp8 .bp 0xFE#8)) 0x80#8),
    ([0b1000_0010#8, 0b00_100_110#8, 0x34#8, 0x12#8, 0x80#8], .andEbIb .second (.mem (.direct 0x1234#16)) 0x80#8),
    ([0b1000_0010#8, 0b11_101_110#8, 0x80#8], .subEbIb .second (.reg .dh) 0x80#8),
    ([0b1000_0010#8, 0b01_110_110#8, 0xFE#8, 0x80#8], .xorEbIb .second (.mem (.disp8 .bp 0xFE#8)) 0x80#8),
    ([0b1000_0010#8, 0b00_111_110#8, 0x34#8, 0x12#8, 0x80#8], .cmpEbIb .second (.mem (.direct 0x1234#16)) 0x80#8),
    ([0b1000_0011#8, 0b11_000_101#8, 0x80#8], .addEvIb (.reg .bp) 0x80#8),
    ([0b1000_0011#8, 0b01_001_110#8, 0xFE#8, 0x80#8], .orEvIb (.mem (.disp8 .bp 0xFE#8)) 0x80#8),
    ([0b1000_0011#8, 0b00_010_110#8, 0x34#8, 0x12#8, 0x80#8], .adcEvIb (.mem (.direct 0x1234#16)) 0x80#8),
    ([0b1000_0011#8, 0b11_011_100#8, 0x80#8], .sbbEvIb (.reg .sp) 0x80#8)] = true := by decide

/-- Opcodes 80 to 8F. -/
theorem test_decode_8x_2 : decodes [
    ([0b1000_0011#8, 0b01_100_110#8, 0xFE#8, 0x80#8], .andEvIb (.mem (.disp8 .bp 0xFE#8)) 0x80#8),
    ([0b1000_0011#8, 0b00_101_110#8, 0x34#8, 0x12#8, 0x80#8], .subEvIb (.mem (.direct 0x1234#16)) 0x80#8),
    ([0b1000_0011#8, 0b11_110_011#8, 0x80#8], .xorEvIb (.reg .bx) 0x80#8),
    ([0b1000_0011#8, 0b01_111_110#8, 0xFE#8, 0x80#8], .cmpEvIb (.mem (.disp8 .bp 0xFE#8)) 0x80#8),
    ([0b1000_0100#8, 0b00_001_110#8, 0x34#8, 0x12#8], .testEbGb (.mem (.direct 0x1234#16)) .cl), ([0b1000_0101#8, 0b11_100_010#8], .testEvGv (.reg .dx) .sp),
    ([0b1000_0110#8, 0b01_111_110#8, 0xFE#8], .xchgEbGb (.mem (.disp8 .bp 0xFE#8)) .bh),
    ([0b1000_0111#8, 0b00_010_110#8, 0x34#8, 0x12#8], .xchgEvGv (.mem (.direct 0x1234#16)) .dx), ([0b1000_1000#8, 0b11_101_001#8], .movEbGb (.reg .cl) .ch),
    ([0b1000_1001#8, 0b01_000_110#8, 0xFE#8], .movEvGv (.mem (.disp8 .bp 0xFE#8)) .ax),
    ([0b1000_1010#8, 0b00_011_110#8, 0x34#8, 0x12#8], .movGbEb .bl (.mem (.direct 0x1234#16))), ([0b1000_1011#8, 0b11_110_000#8], .movGvEv .si (.reg .ax)),
    ([0b1000_1100#8, 0b01_000_110#8, 0xFE#8], .movEwSw .main .es (.mem (.disp8 .bp 0xFE#8))),
    ([0b1000_1100#8, 0b00_001_110#8, 0x34#8, 0x12#8], .movEwSw .main .cs (.mem (.direct 0x1234#16))),
    ([0b1000_1100#8, 0b11_010_111#8], .movEwSw .main .ss (.reg .di)),
    ([0b1000_1100#8, 0b01_011_110#8, 0xFE#8], .movEwSw .main .ds (.mem (.disp8 .bp 0xFE#8))),
    ([0b1000_1100#8, 0b00_100_110#8, 0x34#8, 0x12#8], .movEwSw .second .es (.mem (.direct 0x1234#16))),
    ([0b1000_1100#8, 0b11_101_110#8], .movEwSw .second .cs (.reg .si)),
    ([0b1000_1100#8, 0b01_110_110#8, 0xFE#8], .movEwSw .second .ss (.mem (.disp8 .bp 0xFE#8))),
    ([0b1000_1100#8, 0b00_111_110#8, 0x34#8, 0x12#8], .movEwSw .second .ds (.mem (.direct 0x1234#16))),
    ([0b1000_1101#8, 0b11_001_101#8], .leaGvM .cx (.reg .bp)), ([0b1000_1110#8, 0b01_000_110#8, 0xFE#8], .movSwEw .main .es (.mem (.disp8 .bp 0xFE#8))),
    ([0b1000_1110#8, 0b00_001_110#8, 0x34#8, 0x12#8], .movSwEw .main .cs (.mem (.direct 0x1234#16))),
    ([0b1000_1110#8, 0b11_010_100#8], .movSwEw .main .ss (.reg .sp)),
    ([0b1000_1110#8, 0b01_011_110#8, 0xFE#8], .movSwEw .main .ds (.mem (.disp8 .bp 0xFE#8))),
    ([0b1000_1110#8, 0b00_100_110#8, 0x34#8, 0x12#8], .movSwEw .second .es (.mem (.direct 0x1234#16))),
    ([0b1000_1110#8, 0b11_101_011#8], .movSwEw .second .cs (.reg .bx)),
    ([0b1000_1110#8, 0b01_110_110#8, 0xFE#8], .movSwEw .second .ss (.mem (.disp8 .bp 0xFE#8)))] = true := by decide

/-- Opcodes 80 to 8F. -/
theorem test_decode_8x_3 : decodes [
    ([0b1000_1110#8, 0b00_111_110#8, 0x34#8, 0x12#8], .movSwEw .second .ds (.mem (.direct 0x1234#16))),
    ([0b1000_1111#8, 0b11_000_010#8], .popEv 0#3 (.reg .dx)), ([0b1000_1111#8, 0b01_001_110#8, 0xFE#8], .popEv 1#3 (.mem (.disp8 .bp 0xFE#8))),
    ([0b1000_1111#8, 0b00_010_110#8, 0x34#8, 0x12#8], .popEv 2#3 (.mem (.direct 0x1234#16))), ([0b1000_1111#8, 0b11_011_001#8], .popEv 3#3 (.reg .cx)),
    ([0b1000_1111#8, 0b01_100_110#8, 0xFE#8], .popEv 4#3 (.mem (.disp8 .bp 0xFE#8))),
    ([0b1000_1111#8, 0b00_101_110#8, 0x34#8, 0x12#8], .popEv 5#3 (.mem (.direct 0x1234#16))), ([0b1000_1111#8, 0b11_110_000#8], .popEv 6#3 (.reg .ax)),
    ([0b1000_1111#8, 0b01_111_110#8, 0xFE#8], .popEv 7#3 (.mem (.disp8 .bp 0xFE#8)))] = true := by decide

/-- Opcodes 90 to 9F. -/
theorem test_decode_9x : decodes [
    ([0b1001_0000#8], .nop), ([0b1001_0001#8], .xchgAX .cx), ([0b1001_0010#8], .xchgAX .dx), ([0b1001_0011#8], .xchgAX .bx), ([0b1001_0100#8], .xchgAX .sp),
    ([0b1001_0101#8], .xchgAX .bp), ([0b1001_0110#8], .xchgAX .si), ([0b1001_0111#8], .xchgAX .di), ([0b1001_1000#8], .cbw), ([0b1001_1001#8], .cwd),
    ([0b1001_1010#8, 0x01#8, 0x80#8, 0x34#8, 0x12#8], .callAp 0x8001#16 0x1234#16), ([0b1001_1011#8], .wait), ([0b1001_1100#8], .pushf),
    ([0b1001_1101#8], .popf), ([0b1001_1110#8], .sahf), ([0b1001_1111#8], .lahf)] = true := by decide

/-- Opcodes A0 to AF. -/
theorem test_decode_Ax : decodes [
    ([0b1010_0000#8, 0x01#8, 0x80#8], .movALOb 0x8001#16), ([0b1010_0001#8, 0x01#8, 0x80#8], .movAXOv 0x8001#16),
    ([0b1010_0010#8, 0x01#8, 0x80#8], .movObAL 0x8001#16), ([0b1010_0011#8, 0x01#8, 0x80#8], .movOvAX 0x8001#16), ([0b1010_0100#8], .movsb),
    ([0b1010_0101#8], .movsw), ([0b1010_0110#8], .cmpsb), ([0b1010_0111#8], .cmpsw), ([0b1010_1000#8, 0x80#8], .testALIb 0x80#8),
    ([0b1010_1001#8, 0x01#8, 0x80#8], .testAXIv 0x8001#16), ([0b1010_1010#8], .stosb), ([0b1010_1011#8], .stosw), ([0b1010_1100#8], .lodsb),
    ([0b1010_1101#8], .lodsw), ([0b1010_1110#8], .scasb), ([0b1010_1111#8], .scasw)] = true := by decide

/-- Opcodes B0 to BF. -/
theorem test_decode_Bx : decodes [
    ([0b1011_0000#8, 0x80#8], .movRegIb .al 0x80#8), ([0b1011_0001#8, 0x80#8], .movRegIb .cl 0x80#8), ([0b1011_0010#8, 0x80#8], .movRegIb .dl 0x80#8),
    ([0b1011_0011#8, 0x80#8], .movRegIb .bl 0x80#8), ([0b1011_0100#8, 0x80#8], .movRegIb .ah 0x80#8), ([0b1011_0101#8, 0x80#8], .movRegIb .ch 0x80#8),
    ([0b1011_0110#8, 0x80#8], .movRegIb .dh 0x80#8), ([0b1011_0111#8, 0x80#8], .movRegIb .bh 0x80#8),
    ([0b1011_1000#8, 0x01#8, 0x80#8], .movRegIv .ax 0x8001#16), ([0b1011_1001#8, 0x01#8, 0x80#8], .movRegIv .cx 0x8001#16),
    ([0b1011_1010#8, 0x01#8, 0x80#8], .movRegIv .dx 0x8001#16), ([0b1011_1011#8, 0x01#8, 0x80#8], .movRegIv .bx 0x8001#16),
    ([0b1011_1100#8, 0x01#8, 0x80#8], .movRegIv .sp 0x8001#16), ([0b1011_1101#8, 0x01#8, 0x80#8], .movRegIv .bp 0x8001#16),
    ([0b1011_1110#8, 0x01#8, 0x80#8], .movRegIv .si 0x8001#16), ([0b1011_1111#8, 0x01#8, 0x80#8], .movRegIv .di 0x8001#16)] = true := by decide

/-- Opcodes C0 to CF. -/
theorem test_decode_Cx_1 : decodes [
    ([0b1100_0000#8, 0x01#8, 0x80#8], .retIw .second 0x8001#16), ([0b1100_0001#8], .ret .second), ([0b1100_0010#8, 0x01#8, 0x80#8], .retIw .main 0x8001#16),
    ([0b1100_0011#8], .ret .main), ([0b1100_0100#8, 0b00_100_110#8, 0x34#8, 0x12#8], .lesGvMp .sp (.mem (.direct 0x1234#16))),
    ([0b1100_0101#8, 0b11_111_111#8], .ldsGvMp .di (.reg .di)),
    ([0b1100_0110#8, 0b01_000_110#8, 0xFE#8, 0x80#8], .movEbIb 0#3 (.mem (.disp8 .bp 0xFE#8)) 0x80#8),
    ([0b1100_0110#8, 0b00_001_110#8, 0x34#8, 0x12#8, 0x80#8], .movEbIb 1#3 (.mem (.direct 0x1234#16)) 0x80#8),
    ([0b1100_0110#8, 0b11_010_110#8, 0x80#8], .movEbIb 2#3 (.reg .dh) 0x80#8),
    ([0b1100_0110#8, 0b01_011_110#8, 0xFE#8, 0x80#8], .movEbIb 3#3 (.mem (.disp8 .bp 0xFE#8)) 0x80#8),
    ([0b1100_0110#8, 0b00_100_110#8, 0x34#8, 0x12#8, 0x80#8], .movEbIb 4#3 (.mem (.direct 0x1234#16)) 0x80#8),
    ([0b1100_0110#8, 0b11_101_101#8, 0x80#8], .movEbIb 5#3 (.reg .ch) 0x80#8),
    ([0b1100_0110#8, 0b01_110_110#8, 0xFE#8, 0x80#8], .movEbIb 6#3 (.mem (.disp8 .bp 0xFE#8)) 0x80#8),
    ([0b1100_0110#8, 0b00_111_110#8, 0x34#8, 0x12#8, 0x80#8], .movEbIb 7#3 (.mem (.direct 0x1234#16)) 0x80#8),
    ([0b1100_0111#8, 0b11_000_100#8, 0x01#8, 0x80#8], .movEvIv 0#3 (.reg .sp) 0x8001#16),
    ([0b1100_0111#8, 0b01_001_110#8, 0xFE#8, 0x01#8, 0x80#8], .movEvIv 1#3 (.mem (.disp8 .bp 0xFE#8)) 0x8001#16),
    ([0b1100_0111#8, 0b00_010_110#8, 0x34#8, 0x12#8, 0x01#8, 0x80#8], .movEvIv 2#3 (.mem (.direct 0x1234#16)) 0x8001#16),
    ([0b1100_0111#8, 0b11_011_011#8, 0x01#8, 0x80#8], .movEvIv 3#3 (.reg .bx) 0x8001#16),
    ([0b1100_0111#8, 0b01_100_110#8, 0xFE#8, 0x01#8, 0x80#8], .movEvIv 4#3 (.mem (.disp8 .bp 0xFE#8)) 0x8001#16),
    ([0b1100_0111#8, 0b00_101_110#8, 0x34#8, 0x12#8, 0x01#8, 0x80#8], .movEvIv 5#3 (.mem (.direct 0x1234#16)) 0x8001#16),
    ([0b1100_0111#8, 0b11_110_010#8, 0x01#8, 0x80#8], .movEvIv 6#3 (.reg .dx) 0x8001#16),
    ([0b1100_0111#8, 0b01_111_110#8, 0xFE#8, 0x01#8, 0x80#8], .movEvIv 7#3 (.mem (.disp8 .bp 0xFE#8)) 0x8001#16),
    ([0b1100_1000#8, 0x01#8, 0x80#8], .retfIw .second 0x8001#16), ([0b1100_1001#8], .retf .second),
    ([0b1100_1010#8, 0x01#8, 0x80#8], .retfIw .main 0x8001#16), ([0b1100_1011#8], .retf .main), ([0b1100_1100#8], .int3),
    ([0b1100_1101#8, 0x80#8], .intIb 0x80#8)] = true := by decide

/-- Opcodes C0 to CF. -/
theorem test_decode_Cx_2 : decodes [
    ([0b1100_1110#8], .into), ([0b1100_1111#8], .iret)] = true := by decide

/-- Opcodes D0 to DF. -/
theorem test_decode_Dx_1 : decodes [
    ([0b1101_0000#8, 0b00_000_110#8, 0x34#8, 0x12#8], .rolEb .one (.mem (.direct 0x1234#16))), ([0b1101_0000#8, 0b11_001_001#8], .rorEb .one (.reg .cl)),
    ([0b1101_0000#8, 0b01_010_110#8, 0xFE#8], .rclEb .one (.mem (.disp8 .bp 0xFE#8))),
    ([0b1101_0000#8, 0b00_011_110#8, 0x34#8, 0x12#8], .rcrEb .one (.mem (.direct 0x1234#16))), ([0b1101_0000#8, 0b11_100_000#8], .shlEb .one (.reg .al)),
    ([0b1101_0000#8, 0b01_101_110#8, 0xFE#8], .shrEb .one (.mem (.disp8 .bp 0xFE#8))),
    ([0b1101_0000#8, 0b00_110_110#8, 0x34#8, 0x12#8], .setmoEb (.mem (.direct 0x1234#16))), ([0b1101_0000#8, 0b11_111_111#8], .sarEb .one (.reg .bh)),
    ([0b1101_0001#8, 0b01_000_110#8, 0xFE#8], .rolEv .one (.mem (.disp8 .bp 0xFE#8))),
    ([0b1101_0001#8, 0b00_001_110#8, 0x34#8, 0x12#8], .rorEv .one (.mem (.direct 0x1234#16))), ([0b1101_0001#8, 0b11_010_110#8], .rclEv .one (.reg .si)),
    ([0b1101_0001#8, 0b01_011_110#8, 0xFE#8], .rcrEv .one (.mem (.disp8 .bp 0xFE#8))),
    ([0b1101_0001#8, 0b00_100_110#8, 0x34#8, 0x12#8], .shlEv .one (.mem (.direct 0x1234#16))), ([0b1101_0001#8, 0b11_101_101#8], .shrEv .one (.reg .bp)),
    ([0b1101_0001#8, 0b01_110_110#8, 0xFE#8], .setmoEv (.mem (.disp8 .bp 0xFE#8))),
    ([0b1101_0001#8, 0b00_111_110#8, 0x34#8, 0x12#8], .sarEv .one (.mem (.direct 0x1234#16))), ([0b1101_0010#8, 0b11_000_100#8], .rolEb .cl (.reg .ah)),
    ([0b1101_0010#8, 0b01_001_110#8, 0xFE#8], .rorEb .cl (.mem (.disp8 .bp 0xFE#8))),
    ([0b1101_0010#8, 0b00_010_110#8, 0x34#8, 0x12#8], .rclEb .cl (.mem (.direct 0x1234#16))), ([0b1101_0010#8, 0b11_011_011#8], .rcrEb .cl (.reg .bl)),
    ([0b1101_0010#8, 0b01_100_110#8, 0xFE#8], .shlEb .cl (.mem (.disp8 .bp 0xFE#8))),
    ([0b1101_0010#8, 0b00_101_110#8, 0x34#8, 0x12#8], .shrEb .cl (.mem (.direct 0x1234#16))), ([0b1101_0010#8, 0b11_110_010#8], .setmocEb (.reg .dl)),
    ([0b1101_0010#8, 0b01_111_110#8, 0xFE#8], .sarEb .cl (.mem (.disp8 .bp 0xFE#8))),
    ([0b1101_0011#8, 0b00_000_110#8, 0x34#8, 0x12#8], .rolEv .cl (.mem (.direct 0x1234#16))), ([0b1101_0011#8, 0b11_001_001#8], .rorEv .cl (.reg .cx)),
    ([0b1101_0011#8, 0b01_010_110#8, 0xFE#8], .rclEv .cl (.mem (.disp8 .bp 0xFE#8))),
    ([0b1101_0011#8, 0b00_011_110#8, 0x34#8, 0x12#8], .rcrEv .cl (.mem (.direct 0x1234#16)))] = true := by decide

/-- Opcodes D0 to DF. -/
theorem test_decode_Dx_2 : decodes [
    ([0b1101_0011#8, 0b11_100_000#8], .shlEv .cl (.reg .ax)), ([0b1101_0011#8, 0b01_101_110#8, 0xFE#8], .shrEv .cl (.mem (.disp8 .bp 0xFE#8))),
    ([0b1101_0011#8, 0b00_110_110#8, 0x34#8, 0x12#8], .setmocEv (.mem (.direct 0x1234#16))), ([0b1101_0011#8, 0b11_111_111#8], .sarEv .cl (.reg .di)),
    ([0b1101_0100#8, 0x80#8], .aam 0x80#8), ([0b1101_0101#8, 0x80#8], .aad 0x80#8), ([0b1101_0110#8], .salc), ([0b1101_0111#8], .xlat),
    ([0b1101_1000#8, 0b01_010_110#8, 0xFE#8], .esc 0b000_010#6 (.mem (.disp8 .bp 0xFE#8))),
    ([0b1101_1001#8, 0b00_101_110#8, 0x34#8, 0x12#8], .esc 0b001_101#6 (.mem (.direct 0x1234#16))),
    ([0b1101_1010#8, 0b11_000_110#8], .esc 0b010_000#6 (.reg .si)), ([0b1101_1011#8, 0b01_011_110#8, 0xFE#8], .esc 0b011_011#6 (.mem (.disp8 .bp 0xFE#8))),
    ([0b1101_1100#8, 0b00_110_110#8, 0x34#8, 0x12#8], .esc 0b100_110#6 (.mem (.direct 0x1234#16))),
    ([0b1101_1101#8, 0b11_001_101#8], .esc 0b101_001#6 (.reg .bp)), ([0b1101_1110#8, 0b01_100_110#8, 0xFE#8], .esc 0b110_100#6 (.mem (.disp8 .bp 0xFE#8))),
    ([0b1101_1111#8, 0b00_111_110#8, 0x34#8, 0x12#8], .esc 0b111_111#6 (.mem (.direct 0x1234#16)))] = true := by decide

/-- Opcodes E0 to EF. -/
theorem test_decode_Ex : decodes [
    ([0b1110_0000#8, 0x80#8], .loopneJb 0x80#8), ([0b1110_0001#8, 0x80#8], .loopeJb 0x80#8), ([0b1110_0010#8, 0x80#8], .loopJb 0x80#8),
    ([0b1110_0011#8, 0x80#8], .jcxzJb 0x80#8), ([0b1110_0100#8, 0x80#8], .inALIb 0x80#8), ([0b1110_0101#8, 0x80#8], .inAXIb 0x80#8),
    ([0b1110_0110#8, 0x80#8], .outIbAL 0x80#8), ([0b1110_0111#8, 0x80#8], .outIbAX 0x80#8), ([0b1110_1000#8, 0x01#8, 0x80#8], .callJv 0x8001#16),
    ([0b1110_1001#8, 0x01#8, 0x80#8], .jmpJv 0x8001#16), ([0b1110_1010#8, 0x01#8, 0x80#8, 0x34#8, 0x12#8], .jmpAp 0x8001#16 0x1234#16),
    ([0b1110_1011#8, 0x80#8], .jmpJb 0x80#8), ([0b1110_1100#8], .inALDX), ([0b1110_1101#8], .inAXDX), ([0b1110_1110#8], .outDXAL),
    ([0b1110_1111#8], .outDXAX)] = true := by decide

/-- Opcodes F0 to FF. -/
theorem test_decode_Fx_1 : decodes [
    ([0b1111_0000#8], .lock .main), ([0b1111_0001#8], .lock .second), ([0b1111_0010#8], .repne), ([0b1111_0011#8], .rep), ([0b1111_0100#8], .hlt),
    ([0b1111_0101#8], .cmc), ([0b1111_0110#8, 0b11_000_100#8, 0x80#8], .testEbIb .main (.reg .ah) 0x80#8),
    ([0b1111_0110#8, 0b01_001_110#8, 0xFE#8, 0x80#8], .testEbIb .second (.mem (.disp8 .bp 0xFE#8)) 0x80#8),
    ([0b1111_0110#8, 0b00_010_110#8, 0x34#8, 0x12#8], .notEb (.mem (.direct 0x1234#16))), ([0b1111_0110#8, 0b11_011_011#8], .negEb (.reg .bl)),
    ([0b1111_0110#8, 0b01_100_110#8, 0xFE#8], .mulEb (.mem (.disp8 .bp 0xFE#8))),
    ([0b1111_0110#8, 0b00_101_110#8, 0x34#8, 0x12#8], .imulEb (.mem (.direct 0x1234#16))), ([0b1111_0110#8, 0b11_110_010#8], .divEb (.reg .dl)),
    ([0b1111_0110#8, 0b01_111_110#8, 0xFE#8], .idivEb (.mem (.disp8 .bp 0xFE#8))),
    ([0b1111_0111#8, 0b00_000_110#8, 0x34#8, 0x12#8, 0x01#8, 0x80#8], .testEvIv .main (.mem (.direct 0x1234#16)) 0x8001#16),
    ([0b1111_0111#8, 0b11_001_001#8, 0x01#8, 0x80#8], .testEvIv .second (.reg .cx) 0x8001#16),
    ([0b1111_0111#8, 0b01_010_110#8, 0xFE#8], .notEv (.mem (.disp8 .bp 0xFE#8))),
    ([0b1111_0111#8, 0b00_011_110#8, 0x34#8, 0x12#8], .negEv (.mem (.direct 0x1234#16))), ([0b1111_0111#8, 0b11_100_000#8], .mulEv (.reg .ax)),
    ([0b1111_0111#8, 0b01_101_110#8, 0xFE#8], .imulEv (.mem (.disp8 .bp 0xFE#8))),
    ([0b1111_0111#8, 0b00_110_110#8, 0x34#8, 0x12#8], .divEv (.mem (.direct 0x1234#16))), ([0b1111_0111#8, 0b11_111_111#8], .idivEv (.reg .di)),
    ([0b1111_1000#8], .clc), ([0b1111_1001#8], .stc), ([0b1111_1010#8], .cli), ([0b1111_1011#8], .sti), ([0b1111_1100#8], .cld), ([0b1111_1101#8], .std)] = true := by decide

/-- Opcodes F0 to FF. -/
theorem test_decode_Fx_2 : decodes [
    ([0b1111_1110#8, 0b01_000_110#8, 0xFE#8], .incEb (.mem (.disp8 .bp 0xFE#8))),
    ([0b1111_1110#8, 0b00_001_110#8, 0x34#8, 0x12#8], .decEb (.mem (.direct 0x1234#16))), ([0b1111_1110#8, 0b11_010_110#8], .fe2 (.reg .dh)),
    ([0b1111_1110#8, 0b01_011_110#8, 0xFE#8], .fe3 (.mem (.disp8 .bp 0xFE#8))),
    ([0b1111_1110#8, 0b00_100_110#8, 0x34#8, 0x12#8], .fe4 (.mem (.direct 0x1234#16))), ([0b1111_1110#8, 0b11_101_101#8], .fe5 (.reg .ch)),
    ([0b1111_1110#8, 0b01_110_110#8, 0xFE#8], .fe6 (.mem (.disp8 .bp 0xFE#8))),
    ([0b1111_1110#8, 0b00_111_110#8, 0x34#8, 0x12#8], .fe7 (.mem (.direct 0x1234#16))), ([0b1111_1111#8, 0b11_000_100#8], .incEv (.reg .sp)),
    ([0b1111_1111#8, 0b01_001_110#8, 0xFE#8], .decEv (.mem (.disp8 .bp 0xFE#8))),
    ([0b1111_1111#8, 0b00_010_110#8, 0x34#8, 0x12#8], .callEv (.mem (.direct 0x1234#16))), ([0b1111_1111#8, 0b11_011_011#8], .callMp (.reg .bx)),
    ([0b1111_1111#8, 0b01_100_110#8, 0xFE#8], .jmpEv (.mem (.disp8 .bp 0xFE#8))),
    ([0b1111_1111#8, 0b00_101_110#8, 0x34#8, 0x12#8], .jmpMp (.mem (.direct 0x1234#16))), ([0b1111_1111#8, 0b11_110_010#8], .pushEv .main (.reg .dx)),
    ([0b1111_1111#8, 0b01_111_110#8, 0xFE#8], .pushEv .second (.mem (.disp8 .bp 0xFE#8)))] = true := by decide

/-- R151: the eight address forms of rm, and the two displacements that follow the ModR/M byte. -/
theorem test_decode_modrm : decodes [
    ([0x8B#8, 0b00_000_000#8], .movGvEv .ax (.mem (.nodisp .bxsi))), ([0x8B#8, 0b00_001_001#8], .movGvEv .cx (.mem (.nodisp .bxdi))),
    ([0x8B#8, 0b00_010_010#8], .movGvEv .dx (.mem (.nodisp .bpsi))), ([0x8B#8, 0b00_011_011#8], .movGvEv .bx (.mem (.nodisp .bpdi))),
    ([0x8B#8, 0b00_100_100#8], .movGvEv .sp (.mem (.nodisp .si))), ([0x8B#8, 0b00_101_101#8], .movGvEv .bp (.mem (.nodisp .di))),
    ([0x8B#8, 0b00_110_110#8, 0xCD#8, 0xAB#8], .movGvEv .si (.mem (.direct 0xABCD#16))), ([0x8B#8, 0b00_111_111#8], .movGvEv .di (.mem (.nodisp .bx))),
    ([0x8B#8, 0b01_000_110#8, 0x00#8], .movGvEv .ax (.mem (.disp8 .bp 0#8))),
    ([0x8B#8, 0b10_000_110#8, 0x34#8, 0x12#8], .movGvEv .ax (.mem (.disp16 .bp 0x1234#16)))] = true := by decide

/-- A group row as the table numbers it, `opcode << 8 | modrm`, and with the first byte lowest; what the table gives no bits is 0 (log 28). -/
theorem test_decodeTableWord : decodeTableWord 16 0x83C0 = some (.addEvIb (.reg .ax) 0#8) ∧ decodeTableWord 16 0xC083 = some (.addEvIb (.reg .ax) 0#8) ∧
    decodeTableWord 8 0x43 = some (.incReg .bx) := by decide

/-- `step` runs the word that `withFetchWord` places, as the first instruction after reset (log 28). -/
theorem test_withFetchWord : (match step (State.reset.withFetchWord 8 0x43) with
    | .next t => t.reg16 .bx == 1#16 && t.ip == 1#16 && t.driver.instructions == 1
    | .fault _ => false
    | .refused _ => false) = true := by decide +kernel

/-! ## Single steps -/

/-- A small machine: CS, DS, ES and SS 0, IP 0100h, SP 1000h, undefined flags at their silicon values. -/
def start : State :=
  { State.initial { Params.atReset with undefFlags := .silicon, undocMode := .silicon } [] ⟨0, 0, 0, 0, 0x1000, 0, 0, 0⟩ with
    segs := ⟨0, 0, 0, 0⟩, ip := 0x100, biu := ⟨Queue.empty 4, 0x100, false, false, false⟩ }

/-- Bytes in memory from `a` on. -/
def poke (s : State) (a : Nat) (bs : List Byte) : State :=
  match bs with
  | [] => s
  | b :: rest => poke { s with mem := Memory.write s.mem a b } (a + 1) rest

/-- FLAGS with the live bits of `v`. -/
def flg (s : State) (v : Word) : State := { s with flags := flagsImage v }

/-- The prefix latch of an instruction that began two bytes before IP. -/
def withPfx (s : State) (seg : Option SReg) (rep : Option Rep) (lock : Bool) : State :=
  { s with pfx := ⟨seg, rep, lock, some (s.ip - 2), some (s.ip - 1)⟩ }

/-- Host inputs of one recognition point. -/
def inp (nmi intr test : Bool) (v : Option Byte) : HostInput := ⟨false, nmi, intr, test, v, [], none⟩

/-- One step over `code` at CS:IP, from the state `f` makes of `start`, ends in a next state with `g` true of before and after. -/
def runs (code : List Byte) (f : State → State) (g : State → State → Bool) : Bool :=
  let s := (f start).withCode code
  match step s with
  | .next t => g s t
  | .fault _ => false
  | .refused _ => false

/-- One step is refused with `x`. -/
def refuses (code : List Byte) (f : State → State) (x : Refusal) : Bool :=
  match step ((f start).withCode code) with
  | .next _ => false
  | .fault _ => false
  | .refused y => x == y

/-- Word of memory at an address. -/
def w16 (s : State) (a : Nat) : Nat := (Memory.read s.mem a).toNat + 256 * (Memory.read s.mem (a + 1)).toNat

/-- Byte of memory at an address. -/
def b8 (s : State) (a : Nat) : Nat := (Memory.read s.mem a).toNat


/-- Put a word in a register. -/
def setR (s : State) (r : Reg16) (v : Word) : State := s.setReg16 r v

/-- No port is served. -/
def noPorts (s : State) : State := { s with cfg := { s.cfg with portMap := [] } }

/-- The divide-error vector at 0000h: 1111:2222. -/
def vector0 (s : State) : State := poke s 0 [0x22, 0x22, 0x11, 0x11]

/-- V2. -/
theorem test_add_v2 : runs [0x00, 0xD8] (fun s => ((s.setReg8 .al 0xFF).setReg8 .bl 0x01))
    (fun _ t => t.reg8 .al == 0x00 && t.flag .cf == true && t.flag .pf == true && t.flag .af == true && t.flag .zf == true && t.flag .sf == false && t.flag .ovf == false) = true := by decide +kernel

/-- V6. -/
theorem test_add_v6 : runs [0x01, 0xD8] (fun s => ((s.setReg16 .ax 0xFFFF).setReg16 .bx 0xFFFF))
    (fun _ t => t.reg16 .ax == 0xFFFE && t.flag .cf == true && t.flag .pf == false && t.flag .af == true && t.flag .zf == false && t.flag .sf == true && t.flag .ovf == false) = true := by decide +kernel

/-- V7. -/
theorem test_adc_v7 : runs [0x10, 0xD8] (fun s => (((s.setReg8 .al 0xFF).setReg8 .bl 0x00).setFlag .cf true))
    (fun _ t => t.reg8 .al == 0x00 && t.flag .cf == true && t.flag .pf == true && t.flag .af == true && t.flag .zf == true && t.flag .sf == false && t.flag .ovf == false) = true := by decide +kernel

/-- V9. -/
theorem test_adc_v9 : runs [0x11, 0xD8] (fun s => (((s.setReg16 .ax 0xFFFF).setReg16 .bx 0xFFFF).setFlag .cf true))
    (fun _ t => t.reg16 .ax == 0xFFFF && t.flag .cf == true && t.flag .pf == true && t.flag .af == true && t.flag .zf == false && t.flag .sf == true && t.flag .ovf == false) = true := by decide +kernel

/-- V10. -/
theorem test_sub_v10 : runs [0x28, 0xD8] (fun s => ((s.setReg8 .al 0x80).setReg8 .bl 0x01))
    (fun _ t => t.reg8 .al == 0x7F && t.flag .cf == false && t.flag .pf == false && t.flag .af == true && t.flag .zf == false && t.flag .sf == false && t.flag .ovf == true) = true := by decide +kernel

/-- V13. -/
theorem test_sub_v13 : runs [0x29, 0xD8] (fun s => ((s.setReg16 .ax 0x8000).setReg16 .bx 0x0001))
    (fun _ t => t.reg16 .ax == 0x7FFF && t.flag .cf == false && t.flag .pf == true && t.flag .af == true && t.flag .zf == false && t.flag .sf == false && t.flag .ovf == true) = true := by decide +kernel

/-- V15. -/
theorem test_sbb_v15 : runs [0x18, 0xD8] (fun s => (((s.setReg8 .al 0x00).setReg8 .bl 0x00).setFlag .cf true))
    (fun _ t => t.reg8 .al == 0xFF && t.flag .cf == true && t.flag .pf == true && t.flag .af == true && t.flag .zf == false && t.flag .sf == true && t.flag .ovf == false) = true := by decide +kernel

/-- V17. -/
theorem test_sbb_v17 : runs [0x19, 0xD8] (fun s => (((s.setReg16 .ax 0x8000).setReg16 .bx 0x0000).setFlag .cf true))
    (fun _ t => t.reg16 .ax == 0x7FFF && t.flag .cf == false && t.flag .pf == true && t.flag .af == true && t.flag .zf == false && t.flag .sf == false && t.flag .ovf == true) = true := by decide +kernel

/-- V18. -/
theorem test_cmp_v18 : runs [0x38, 0xD8] (fun s => ((s.setReg8 .al 0x01).setReg8 .bl 0x02))
    (fun s t => t.flag .cf == true && t.flag .pf == true && t.flag .af == true && t.flag .zf == false && t.flag .sf == true && t.flag .ovf == false && t.reg16 .ax == s.reg16 .ax) = true := by decide +kernel

/-- V19. -/
theorem test_cmp_v19 : runs [0x38, 0xD8] (fun s => ((s.setReg8 .al 0x7F).setReg8 .bl 0x80))
    (fun s t => t.flag .cf == true && t.flag .pf == true && t.flag .af == false && t.flag .zf == false && t.flag .sf == true && t.flag .ovf == true && t.reg16 .ax == s.reg16 .ax) = true := by decide +kernel

/-- V21. -/
theorem test_inc_v21 : runs [0xFE, 0xC0] (fun s => ((s.setReg8 .al 0xFF).setFlag .cf true))
    (fun _ t => t.reg8 .al == 0x00 && t.flag .cf == true && t.flag .pf == true && t.flag .af == true && t.flag .zf == true && t.flag .sf == false && t.flag .ovf == false) = true := by decide +kernel

/-- V23. -/
theorem test_inc_v23 : runs [0x40] (fun s => ((s.setReg16 .ax 0xFFFF).setFlag .cf false))
    (fun _ t => t.reg16 .ax == 0x0000 && t.flag .cf == false && t.flag .pf == true && t.flag .af == true && t.flag .zf == true && t.flag .sf == false && t.flag .ovf == false) = true := by decide +kernel

/-- V24. -/
theorem test_dec_v24 : runs [0xFE, 0xC8] (fun s => ((s.setReg8 .al 0x80).setFlag .cf true))
    (fun _ t => t.reg8 .al == 0x7F && t.flag .cf == true && t.flag .pf == false && t.flag .af == true && t.flag .zf == false && t.flag .sf == false && t.flag .ovf == true) = true := by decide +kernel

/-- V26. -/
theorem test_dec_v26 : runs [0x48] (fun s => ((s.setReg16 .ax 0x0001).setFlag .cf true))
    (fun _ t => t.reg16 .ax == 0x0000 && t.flag .cf == true && t.flag .pf == true && t.flag .af == false && t.flag .zf == true && t.flag .sf == false && t.flag .ovf == false) = true := by decide +kernel

/-- V27. -/
theorem test_neg_v27 : runs [0xF6, 0xD8] (fun s => ((s.setReg8 .al 0x80).setFlag .cf false))
    (fun _ t => t.reg8 .al == 0x80 && t.flag .cf == true && t.flag .pf == false && t.flag .af == false && t.flag .zf == false && t.flag .sf == true && t.flag .ovf == true) = true := by decide +kernel

/-- V30. -/
theorem test_neg_v30 : runs [0xF7, 0xD8] (fun s => ((s.setReg16 .ax 0x8000).setFlag .cf false))
    (fun _ t => t.reg16 .ax == 0x8000 && t.flag .cf == true && t.flag .pf == true && t.flag .af == false && t.flag .zf == false && t.flag .sf == true && t.flag .ovf == true) = true := by decide +kernel

/-- V32: the result. -/
theorem test_and_v32 : runs [0x21, 0xD8] (fun s => ((s.setReg16 .ax 0x8001).setReg16 .bx 0xFFFF)) (fun _ t => t.reg16 .ax == 0x8001) = true := by decide +kernel

/-- V38: the result. -/
theorem test_and_v38 : runs [0x83, 0xE0, 0x80] (fun s => (s.setReg16 .ax 0x1234)) (fun _ t => t.reg16 .ax == 0x1200) = true := by decide +kernel

/-- V33: the result. -/
theorem test_or_v33 : runs [0x08, 0xD8] (fun s => ((s.setReg8 .al 0x00).setReg8 .bl 0x00)) (fun _ t => t.reg8 .al == 0x00) = true := by decide +kernel

/-- V34: the result. -/
theorem test_or_v34 : runs [0x08, 0xD8] (fun s => ((s.setReg8 .al 0x40).setReg8 .bl 0x03)) (fun _ t => t.reg8 .al == 0x43) = true := by decide +kernel

/-- V35: the result. -/
theorem test_xor_v35 : runs [0x31, 0xD8] (fun s => ((s.setReg16 .ax 0xAAAA).setReg16 .bx 0x5555)) (fun _ t => t.reg16 .ax == 0xFFFF) = true := by decide +kernel

/-- V36: the result. -/
theorem test_xor_v36 : runs [0x30, 0xD8] (fun s => ((s.setReg8 .al 0x5A).setReg8 .bl 0x5A)) (fun _ t => t.reg8 .al == 0x00) = true := by decide +kernel

/-- V37: the result. -/
theorem test_test_v37 : runs [0x84, 0xD8] (fun s => ((s.setReg8 .al 0x81).setReg8 .bl 0x80)) (fun s t => t.reg16 .ax == s.reg16 .ax) = true := by decide +kernel

/-- V243: the result. -/
theorem test_test_v243 : runs [0xF6, 0xC8, 0x0F] (fun s => setR s .ax 0xF0) (fun _ t => t.ip == 0x103) = true := by decide +kernel

/-- V39. -/
theorem test_not_v39 : runs [0xF6, 0xD0] (fun s => (s.setReg8 .al 0x5A)) (fun s t => t.reg8 .al == 0xA5 && t.flags == s.flags) = true := by decide +kernel

/-- V40. -/
theorem test_rol_v40 : runs [0xD0, 0xC0] (fun s => ((s.setReg8 .al 0x81).setFlag .cf false))
    (fun _ t => t.reg8 .al == 0x03 && t.flag .cf == true && t.flag .ovf == true) = true := by decide +kernel

/-- V41. -/
theorem test_rol_v41 : runs [0xD2, 0xC0] (fun s => (((s.setReg8 .al 0x81).setFlag .cf false).setReg8 .cl 0x08))
    (fun _ t => t.reg8 .al == 0x81 && t.flag .cf == true && t.flag .ovf == false) = true := by decide +kernel

/-- V42. -/
theorem test_ror_v42 : runs [0xD0, 0xC8] (fun s => ((s.setReg8 .al 0x01).setFlag .cf false))
    (fun _ t => t.reg8 .al == 0x80 && t.flag .cf == true && t.flag .ovf == true) = true := by decide +kernel

/-- V43. -/
theorem test_ror_v43 : runs [0xD3, 0xC8] (fun s => (((s.setReg16 .ax 0x8001).setFlag .cf false).setReg8 .cl 0x10))
    (fun _ t => t.reg16 .ax == 0x8001 && t.flag .cf == true && t.flag .ovf == true) = true := by decide +kernel

/-- V44. -/
theorem test_rcl_v44 : runs [0xD0, 0xD0] (fun s => ((s.setReg8 .al 0x80).setFlag .cf false))
    (fun _ t => t.reg8 .al == 0x00 && t.flag .cf == true && t.flag .ovf == true) = true := by decide +kernel

/-- V45. -/
theorem test_rcl_v45 : runs [0xD2, 0xD0] (fun s => (((s.setReg8 .al 0x55).setFlag .cf true).setReg8 .cl 0x09))
    (fun _ t => t.reg8 .al == 0x55 && t.flag .cf == true && t.flag .ovf == true) = true := by decide +kernel

/-- V46. -/
theorem test_rcr_v46 : runs [0xD0, 0xD8] (fun s => ((s.setReg8 .al 0x01).setFlag .cf true))
    (fun _ t => t.reg8 .al == 0x80 && t.flag .cf == true && t.flag .ovf == true) = true := by decide +kernel

/-- V47. -/
theorem test_rcr_v47 : runs [0xD3, 0xD8] (fun s => (((s.setReg16 .ax 0x1234).setFlag .cf false).setReg8 .cl 0x11))
    (fun _ t => t.reg16 .ax == 0x1234 && t.flag .cf == false && t.flag .ovf == false) = true := by decide +kernel

/-- V50: the result. -/
theorem test_shl_v50 : runs [0xD2, 0xE0] (fun s => (((s.setReg8 .al 0xFF).setFlag .cf true).setReg8 .cl 0x09))
    (fun _ t => t.reg8 .al == 0x00) = true := by decide +kernel

/-- V51: the result. -/
theorem test_shl_v51 : runs [0xD3, 0xE0] (fun s => (((s.setReg16 .ax 0x8000).setFlag .cf false).setReg8 .cl 0xFF))
    (fun _ t => t.reg16 .ax == 0x0000) = true := by decide +kernel

/-- V53: the result. -/
theorem test_shr_v53 : runs [0xD2, 0xE8] (fun s => (((s.setReg8 .al 0x80).setFlag .cf false).setReg8 .cl 0x07))
    (fun _ t => t.reg8 .al == 0x01) = true := by decide +kernel

/-- V54: the result. -/
theorem test_shr_v54 : runs [0xD3, 0xE8] (fun s => (((s.setReg16 .ax 0xFFFF).setFlag .cf false).setReg8 .cl 0x10))
    (fun _ t => t.reg16 .ax == 0x0000) = true := by decide +kernel

/-- V56: the result. -/
theorem test_sar_v56 : runs [0xD2, 0xF8] (fun s => (((s.setReg8 .al 0x80).setFlag .cf false).setReg8 .cl 0x08))
    (fun _ t => t.reg8 .al == 0xFF) = true := by decide +kernel

/-- V57: the result. -/
theorem test_sar_v57 : runs [0xD2, 0xF8] (fun s => (((s.setReg8 .al 0x7F).setFlag .cf true).setReg8 .cl 0xC8))
    (fun _ t => t.reg8 .al == 0x00) = true := by decide +kernel

/-- V59: the result. -/
theorem test_mul_v59 : runs [0xF6, 0xE3] (fun s => ((s.setReg8 .al 0xFF).setReg8 .bl 0xFF)) (fun _ t => t.reg16 .ax == 0xFE01) = true := by decide +kernel

/-- V62: the result. -/
theorem test_mul_v62 : runs [0xF7, 0xE3] (fun s => ((s.setReg16 .ax 0x0100).setReg16 .bx 0x0100))
    (fun _ t => t.reg16 .dx == 0x0001 && t.reg16 .ax == 0x0000) = true := by decide +kernel

/-- V63: the result. -/
theorem test_imul_v63 : runs [0xF6, 0xEB] (fun s => ((s.setReg8 .al 0x80).setReg8 .bl 0xFF)) (fun _ t => t.reg16 .ax == 0x0080) = true := by decide +kernel

/-- V67: the result. -/
theorem test_imul_v67 : runs [0xF7, 0xEB] (fun s => ((s.setReg16 .ax 0x8000).setReg16 .bx 0xFFFF))
    (fun _ t => t.reg16 .dx == 0x0000 && t.reg16 .ax == 0x8000) = true := by decide +kernel

/-- V72. -/
theorem test_div_v72 : runs [0xF7, 0xF3] (fun s => (((s.setReg16 .dx 0x0001).setReg16 .ax 0x0000).setReg16 .bx 0x0002))
    (fun _ t => t.reg16 .ax == 0x8000 && t.reg16 .dx == 0x0000) = true := by decide +kernel

/-- V75. -/
theorem test_idiv_v75 : runs [0xF6, 0xFB] (fun s => ((s.setReg16 .ax 0xFF81).setReg8 .bl 0x01))
    (fun _ t => t.reg8 .al == 0x81 && t.reg8 .ah == 0x00) = true := by decide +kernel

/-- V84: the result. -/
theorem test_aaa_v84 : runs [0x37] (fun s => ((s.setReg16 .ax 0x00FF).setFlag .af false)) (fun _ t => t.reg16 .ax == 0x0105) = true := by decide +kernel

/-- V85: the result. -/
theorem test_aaa_v85 : runs [0x37] (fun s => ((s.setReg16 .ax 0x0105).setFlag .af true)) (fun _ t => t.reg16 .ax == 0x020B) = true := by decide +kernel

/-- V86: the result. -/
theorem test_aas_v86 : runs [0x3F] (fun s => ((s.setReg16 .ax 0x0100).setFlag .af true)) (fun _ t => t.reg16 .ax == 0x000A) = true := by decide +kernel

/-- V88: the result. -/
theorem test_aas_v88 : runs [0x3F] (fun s => ((s.setReg16 .ax 0x000F).setFlag .af false)) (fun _ t => t.reg16 .ax == 0xFF09) = true := by decide +kernel

/-- V89: the result. -/
theorem test_daa_v89 : runs [0x27] (fun s => (((s.setReg8 .al 0x9A).setFlag .af false).setFlag .cf false))
    (fun _ t => t.reg8 .al == 0x00) = true := by decide +kernel

/-- V93: the result. -/
theorem test_daa_v93 : runs [0x27] (fun s => (((s.setReg8 .al 0xFA).setFlag .af false).setFlag .cf false))
    (fun _ t => t.reg8 .al == 0x60) = true := by decide +kernel

/-- V94: the result. -/
theorem test_das_v94 : runs [0x2F] (fun s => (((s.setReg8 .al 0x00).setFlag .af true).setFlag .cf false))
    (fun _ t => t.reg8 .al == 0xFA) = true := by decide +kernel

/-- V96: the result. -/
theorem test_das_v96 : runs [0x2F] (fun s => (((s.setReg8 .al 0x10).setFlag .af false).setFlag .cf true))
    (fun _ t => t.reg8 .al == 0xB0) = true := by decide +kernel

/-- V99: the result. -/
theorem test_aam_v99 : runs [0xD4, 0x0A] (fun s => (s.setReg8 .al 0xFF)) (fun _ t => t.reg16 .ax == 0x1905) = true := by decide +kernel

/-- V104: the result. -/
theorem test_aad_v104 : runs [0xD5, 0x0A] (fun s => (s.setReg16 .ax 0xFFFF)) (fun _ t => t.reg16 .ax == 0x00F5) = true := by decide +kernel

/-- V105: the result. -/
theorem test_aad_v105 : runs [0xD5, 0x10] (fun s => (s.setReg16 .ax 0x0F0F)) (fun _ t => t.reg16 .ax == 0x00FF) = true := by decide +kernel

/-- V107. -/
theorem test_cbw_v107 : runs [0x98] (fun s => (s.setReg16 .ax 0x0080)) (fun s t => t.reg16 .ax == 0xFF80 && t.flags == s.flags) = true := by decide +kernel

/-- V108. -/
theorem test_cbw_v108 : runs [0x98] (fun s => (s.setReg16 .ax 0xAAFF)) (fun s t => t.reg16 .ax == 0xFFFF && t.flags == s.flags) = true := by decide +kernel

/-- V109. -/
theorem test_cwd_v109 : runs [0x99] (fun s => ((s.setReg16 .ax 0x7FFF).setReg16 .dx 0x1234))
    (fun s t => t.reg16 .dx == 0x0000 && t.flags == s.flags && t.reg16 .ax == s.reg16 .ax) = true := by decide +kernel

/-- V110. -/
theorem test_cwd_v110 : runs [0x99] (fun s => ((s.setReg16 .ax 0x8000).setReg16 .dx 0x1234))
    (fun s t => t.reg16 .dx == 0xFFFF && t.flags == s.flags && t.reg16 .ax == s.reg16 .ax) = true := by decide +kernel

/-- V113. -/
theorem test_mov_v113 : runs [0xA1, 0xFF, 0xFF] (fun s => poke (poke s 0xffff [0x34]) 0 [0x12]) (fun _ t => t.reg16 .ax == 0x1234) = true := by decide +kernel

/-- V114. -/
theorem test_mov_v114 : runs [0x8A, 0x07] (fun s => poke ((setR s .bx 0x10).setSeg .ds 0xFFFF) 0 [0x5A])
    (fun _ t => t.reg8 .al == 0x5A) = true := by decide +kernel

/-- V117. -/
theorem test_push_v117 : runs [0x54] (fun s => setR s .sp 0) (fun _ t => t.reg16 .sp == 0xFFFE && w16 t 0xFFFE == 0xFFFE) = true := by decide +kernel

/-- V118. -/
theorem test_push_v118 : runs [0x50] (fun s => setR (setR s .sp 1) .ax 0x1234)
    (fun _ t => t.reg16 .sp == 0xFFFF && b8 t 0xFFFF == 0x34 && b8 t 0 == 0x12) = true := by decide +kernel

/-- V119. -/
theorem test_pop_v119 : runs [0x5C] (fun s => poke (setR s .sp 0x200) 0x200 [0x34,0x12]) (fun _ t => t.reg16 .sp == 0x1234) = true := by decide +kernel

/-- V120. -/
theorem test_pop_v120 : runs [0x58] (fun s => poke (setR s .sp 0xFFFE) 0xFFFE [0xCD,0xAB])
    (fun _ t => t.reg16 .sp == 0 && t.reg16 .ax == 0xABCD) = true := by decide +kernel

/-- V124. -/
theorem test_xchg_v124 : runs [0x93] (fun s => setR (setR s .ax 0x1111) .bx 0x2222)
    (fun _ t => t.reg16 .ax == 0x2222 && t.reg16 .bx == 0x1111) = true := by decide +kernel

/-- V125. -/
theorem test_xchg_v125 : runs [0x86, 0x07] (fun s => poke (setR (setR s .ax 0x12) .bx 0x100) 0x104 [0x34] |> fun s => setR s .bx 0x104)
    (fun _ t => t.reg8 .al == 0x34 && b8 t 0x104 == 0x12) = true := by decide +kernel

/-- V127. -/
theorem test_xlat_v127 : runs [0xD7] (fun s => poke (setR (setR s .ax 2) .bx 0xFFFF) 0x1 [0x99]) (fun _ t => t.reg8 .al == 0x99) = true := by decide +kernel

/-- V129. -/
theorem test_lea_v129 : runs [0x8D, 0x40, 0x10] (fun s => setR (setR s .bx 0xFFF0) .si 0x20) (fun _ t => t.reg16 .ax == 0x20) = true := by decide +kernel

/-- V131. -/
theorem test_lds_v131 : runs [0xC5, 0x36, 0x10, 0x00] (fun s => poke s 0x10 [0,1,0,0xB8])
    (fun _ t => t.reg16 .si == 0x100 && t.segs.ds == 0xB800) = true := by decide +kernel

/-- V132. -/
theorem test_les_v132 : runs [0xC4, 0x3E, 0xFE, 0xFF] (fun s => poke (poke s 0xFFFE [0,0x30]) 0 [0,0xA0])
    (fun _ t => t.reg16 .di == 0x3000 && t.segs.es == 0xA000) = true := by decide +kernel

/-- V133. -/
theorem test_lahf_v133 : runs [0x9F] (fun s => flg s 0x41) (fun _ t => t.reg8 .ah == 0x43) = true := by decide +kernel

/-- V134. -/
theorem test_lahf_v134 : runs [0x9F] (fun s => flg s 0xD7) (fun _ t => t.reg8 .ah == 0xD7) = true := by decide +kernel

/-- V135. -/
theorem test_sahf_v135 : runs [0x9E] (fun s => flg s 0x0ED5) (fun _ t => t.flags == flagsImage 0x0E00) = true := by decide +kernel

/-- V136. -/
theorem test_sahf_v136 : runs [0x9E] (fun s => setR s .ax 0xFF00) (fun _ t => t.flags == 0xF0D7) = true := by decide +kernel

/-- V137. -/
theorem test_pushf_v137 : runs [0x9C] (fun s => flg s 0x41) (fun _ t => w16 t 0xFFE == 0xF043) = true := by decide +kernel

/-- V138. -/
theorem test_popf_v138 : runs [0x9D] (fun s => poke s 0x1000 [0xFF,0xFF-1-2]) (fun _ t => t.flags == 0xFCD7) = true := by decide +kernel

/-- V141. -/
theorem test_in_v141 : runs [0xEC] (fun s => noPorts (setR s .dx 0x3F8))
    (fun _ t => t.reg8 .al == 0xFF && t.events == [⟨.io,.read,0x3F8,0xFF,true⟩]) = true := by decide +kernel

/-- V142. -/
theorem test_in_v142 : runs [0xE5, 0x60] (fun s => noPorts s)
    (fun _ t => t.reg16 .ax == 0xFFFF && t.events.map (·.addr.toNat) == [0x60,0x61]) = true := by decide +kernel

/-- V143. -/
theorem test_out_v143 : runs [0xE6, 0x60] (fun s => setR s .ax 0x12) (fun _ t => t.events == [⟨.io,.write,0x60,0x12,false⟩]) = true := by decide +kernel

/-- V144. -/
theorem test_out_v144 : runs [0xEF] (fun s => setR (setR s .ax 0x1234) .dx 0x40)
    (fun _ t => t.events == [⟨.io,.write,0x40,0x34,false⟩,⟨.io,.write,0x41,0x12,false⟩]) = true := by decide +kernel

/-- V145. -/
theorem test_movsb_v145 : runs [0xA4] (fun s => poke (setR (setR s .si 0x108) .di 0x200) 0x108 [0x41])
    (fun _ t => b8 t 0x200 == 0x41 && t.reg16 .si == 0x109 && t.reg16 .di == 0x201) = true := by decide +kernel

/-- V146. -/
theorem test_movsw_v146 : runs [0xA5] (fun s => poke (setR (setR (flg s 0x400) .si 0x108) .di 0x202) 0x108 [0x34,0x12])
    (fun _ t => w16 t 0x202 == 0x1234 && t.reg16 .si == 0x106 && t.reg16 .di == 0x200) = true := by decide +kernel

/-- V155. -/
theorem test_scasw_v155 : runs [0xAF] (fun s => poke (setR (setR s .ax 0x1234) .di 0x10) 0x10 [0x34,0x12])
    (fun _ t => t.flags == flagsImage 0x44 && t.reg16 .di == 0x12) = true := by decide +kernel

/-- V160. -/
theorem test_stosw_v160 : runs [0xAB] (fun s => setR (setR s .ax 0x1234) .di 0xFFFF)
    (fun _ t => b8 t 0xFFFF == 0x34 && b8 t 0 == 0x12 && t.reg16 .di == 1) = true := by decide +kernel

/-- V164. -/
theorem test_jmp_v164 : runs [0xEB, 0x80] (fun s => {s with ip := 0}) (fun _ t => t.ip == 0xFF82) = true := by decide +kernel

/-- V169. -/
theorem test_jmp_v169 : runs [0xFF, 0x2E, 0x10, 0x00] (fun s => poke s 0x10 [0,1,0,0x20])
    (fun _ t => t.ip == 0x100 && t.segs.cs == 0x2000) = true := by decide +kernel

/-- V171. -/
theorem test_call_v171 : runs [0x9A, 0x00, 0x01, 0x00, 0x20] (fun s => {s.setSeg .cs 0x1000 with ip := 0x50})
    (fun _ t => t.ip == 0x100 && t.segs.cs == 0x2000 && w16 t 0xFFE == 0x1000 && w16 t 0xFFC == 0x55) = true := by decide +kernel

/-- V173. -/
theorem test_call_v173 : runs [0xFF, 0x1F] (fun s => poke ((setR s .bx 0x200).setSeg .cs 0x1000) 0x200 [0,0,0,0x30])
    (fun _ t => t.ip == 0 && t.segs.cs == 0x3000 && w16 t 0xFFE == 0x1000 && w16 t 0xFFC == 0x102) = true := by decide +kernel

/-- V175. -/
theorem test_ret_v175 : runs [0xC2, 0x04, 0x00] (fun s => poke (setR s .sp 0xFF0) 0xFF0 [3,1])
    (fun _ t => t.ip == 0x103 && t.reg16 .sp == 0xFF6) = true := by decide +kernel

/-- V235. -/
theorem test_ret_v235 : runs [0xC0, 0x04, 0x00] (fun s => setR s .sp 0xFF0) (fun _ t => t.reg16 .sp == 0xFF6) = true := by decide +kernel

/-- V177. -/
theorem test_retf_v177 : runs [0xCB] (fun s => poke (setR s .sp 0xFFC) 0xFFC [0x55,0,0,0x10])
    (fun _ t => t.ip == 0x55 && t.segs.cs == 0x1000 && t.reg16 .sp == 0x1000) = true := by decide +kernel

/-- V236. -/
theorem test_retf_v236 : runs [0xC9] (fun s => poke s 0x1000 [0x55,0,0,0x10]) (fun _ t => t.ip == 0x55 && t.segs.cs == 0x1000) = true := by decide +kernel

/-- V179. -/
theorem test_loop_v179 : runs [0xE2, 0xFE] (fun s => setR s .cx 1) (fun _ t => t.reg16 .cx == 0 && t.ip == 0x102) = true := by decide +kernel

/-- V180. -/
theorem test_loop_v180 : runs [0xE2, 0xFE] (fun s => setR s .cx 0) (fun _ t => t.reg16 .cx == 0xFFFF && t.ip == 0x100) = true := by decide +kernel

/-- V181. -/
theorem test_loope_v181 : runs [0xE1, 0xFE] (fun s => flg (setR s .cx 2) 0x40) (fun _ t => t.reg16 .cx == 1 && t.ip == 0x100) = true := by decide +kernel

/-- V182. -/
theorem test_loope_v182 : runs [0xE1, 0xFE] (fun s => (setR s .cx 5)) (fun _ t => t.reg16 .cx == 4 && t.ip == 0x102) = true := by decide +kernel

/-- V183. -/
theorem test_loopne_v183 : runs [0xE0, 0xFE] (fun s => flg (setR s .cx 2) 0x40) (fun _ t => t.reg16 .cx == 1 && t.ip == 0x102) = true := by decide +kernel

/-- V184. -/
theorem test_loopne_v184 : runs [0xE0, 0xFE] (fun s => (setR s .cx 5)) (fun _ t => t.reg16 .cx == 4 && t.ip == 0x100) = true := by decide +kernel

/-- V185. -/
theorem test_jcxz_v185 : runs [0xE3, 0x10] (fun s => {s with ip := 0x200}) (fun _ t => t.ip == 0x212) = true := by decide +kernel

/-- V186. -/
theorem test_jcxz_v186 : runs [0xE3, 0x10] (fun s => {setR s .cx 1 with ip := 0x200}) (fun _ t => t.ip == 0x202) = true := by decide +kernel

/-- V187. -/
theorem test_int_v187 : runs [0xCD, 0x21] (fun s => poke (flg (s.setSeg .cs 0x1000) 0xF203) 0x84 [0,2,0,0x30])
    (fun _ t => t.ip == 0x200 && t.segs.cs == 0x3000 && t.flags == 0xF003 && w16 t 0xFFE == 0xF203 && w16 t 0xFFC == 0x1000 && w16 t 0xFFA == 0x102 && t.reg16 .sp == 0xFFA) = true := by decide +kernel

/-- V190. -/
theorem test_into_v190 : runs [0xCE] (fun s => s) (fun _ t => t.ip == 0x101) = true := by decide +kernel

/-- V191. -/
theorem test_into_v191 : runs [0xCE] (fun s => poke (flg s 0x800) 0x10 [1,2,3,4])
    (fun _ t => t.ip == 0x201 && t.segs.cs == 0x403 && w16 t 0xFFA == 0x101) = true := by decide +kernel

/-- V192. -/
theorem test_iret_v192 : runs [0xCF] (fun s => poke (setR s .sp 0xFFA) 0xFFA [2,1,0,0x10,2,0xF2])
    (fun _ t => t.ip == 0x102 && t.segs.cs == 0x1000 && t.flags == 0xF202 && t.reg16 .sp == 0x1000) = true := by decide +kernel

/-- V232. -/
theorem test_salc_v232 : runs [0xD6] (fun s => flg s 1) (fun s t => t.reg8 .al == 0xFF && t.flags == s.flags) = true := by decide +kernel

/-- V237. -/
theorem test_setmo_v237 : runs [0xD0, 0xF0] (fun s => setR s .ax 0x12) (fun _ t => t.reg8 .al == 0xFF && t.flags == flagsImage 0x84) = true := by decide +kernel

/-- V238. -/
theorem test_setmoc_v238 : runs [0xD3, 0xF0] (fun s => setR s .ax 0x1234) (fun s t => t.regs == s.regs && t.flags == s.flags) = true := by decide +kernel

/-- V239. -/
theorem test_setmoc_v239 : runs [0xD3, 0xF0] (fun s => setR (setR s .ax 0x1234) .cx 3) (fun _ t => t.reg16 .ax == 0xFFFF) = true := by decide +kernel

/-- V128, the override taken before. -/
theorem test_xlat_v128 : runs [0xD7] (fun s => withPfx (poke (s.setSeg .cs 0x2000) 0x20000 [0x11]) (some .cs) none false)
    (fun _ t => t.reg8 .al == 0x11 && t.pfx == Pfx.clear) = true := by decide +kernel

/-- V149, the prefix taken before. -/
theorem test_movsb_v149 : runs [0xA4] (fun s => withPfx (poke (setR (setR (setR s .si 0x180) .di 0x200) .cx 3) 0x180 [1, 2, 3]) none (some .repe) false)
    (fun _ t => b8 t 0x202 == 3 && t.reg16 .cx == 0 && t.reg16 .si == 0x183 && t.driver.instructions == 1) = true := by decide +kernel

/-- R331, V148: with CX = 0 a repeated string instruction does nothing. -/
theorem test_movsw_cx0 : runs [0xA5] (fun s => withPfx s none (some .repe) false)
    (fun s t => t.regs == s.regs && t.ip == 0x101 && t.mem == s.mem) = true := by decide +kernel

/-- V152, the prefix taken before. -/
theorem test_cmpsb_v152 : runs [0xA6] (fun s => withPfx (poke (poke (setR (setR (setR s .si 0x180) .di 0x200) .cx 5) 0x180 [0x41, 0x42]) 0x200 [0x41, 0x43]) none (some .repe) false)
    (fun _ t => t.reg16 .cx == 3 && t.reg16 .si == 0x182 && t.reg16 .di == 0x202 && t.flags == flagsImage 0x95) = true := by decide +kernel

/-- R333 with DF = 1: the source is the minuend, and both offsets go down by 2. -/
theorem test_cmpsw_down : runs [0xA7] (fun s => poke (poke (setR (setR (flg s 0x400) .si 0x300) .di 0x200) 0x300 [0, 0x80]) 0x200 [1, 0])
    (fun _ t => t.reg16 .si == 0x2FE && t.reg16 .di == 0x1FE && t.flag .ovf && !t.flag .sf && !t.flag .cf && !t.flag .zf) = true := by decide +kernel

/-- V154, the prefix taken before. -/
theorem test_scasb_v154 : runs [0xAE] (fun s => withPfx (poke ((setR (setR s .cx 0x10) .di 0).setSeg .es 0x1000) 0x10000 [1, 2, 3, 0]) none (some .repne) false)
    (fun _ t => t.reg16 .cx == 0xC && t.reg16 .di == 4 && t.flag .zf) = true := by decide +kernel

/-- V158, the override taken before. -/
theorem test_lodsb_v158 : runs [0xAC] (fun s => withPfx (poke ((setR s .si 5).setSeg .es 0x1000) 0x10005 [0x66]) (some .es) none false)
    (fun _ t => t.reg8 .al == 0x66 && t.reg16 .si == 6) = true := by decide +kernel

/-- R334, R76: the word at FFFFh has its high byte at 0000h. -/
theorem test_lodsw_wrap : runs [0xAD] (fun s => poke (poke (setR s .si 0xFFFF) 0xFFFF [0x34]) 0 [0x12])
    (fun _ t => t.reg16 .ax == 0x1234 && t.reg16 .si == 1) = true := by decide +kernel

/-- V161 with STOSB: interrupted after its first iteration; what is entered next saves the offset of the last prefix byte. -/
theorem test_stosb_v161 : runs [0x26, 0xF3, 0xAA] (fun s => { flg (setR (setR s .di 0x200) .cx 3) 0x200 with inputs := [inp false true true (some 8)] })
    (fun _ t => t.reg16 .cx == 2 && t.reg16 .di == 0x201 && t.entry == some ⟨.intr, 0x101⟩ && t.driver.instructions == 0 && t.pfx == Pfx.clear) = true := by decide +kernel

/-- R445: type 3, vector at 000Ch. -/
theorem test_int3 : runs [0xCC] (fun s => poke (flg s 0x300) 0xC [0x00, 0x02, 0x00, 0x30])
    (fun _ t => t.ip == 0x200 && t.segs.cs == 0x3000 && t.flags == 0xF002 && w16 t 0xFFE == 0xF302 && w16 t 0xFFA == 0x101) = true := by decide +kernel

/-- R365: JO on its condition. -/
theorem test_jo_taken : runs [0x70, 0x05] (fun s => flg s 0x800) (fun _ t => t.ip == 0x107) = true := by decide +kernel

/-- R365: JO off its condition. -/
theorem test_jo_not : runs [0x70, 0x05] (fun s => flg s 0) (fun s t => t.ip == 0x102 && t.flags == s.flags) = true := by decide +kernel

/-- R365: JNO on its condition. -/
theorem test_jno_taken : runs [0x71, 0x05] (fun s => flg s 0) (fun _ t => t.ip == 0x107) = true := by decide +kernel

/-- R365: JNO off its condition, in its alias of R411. -/
theorem test_jno_not : runs [0x61, 0x05] (fun s => flg s 0x800) (fun s t => t.ip == 0x102 && t.flags == s.flags) = true := by decide +kernel

/-- R365: JB on its condition. -/
theorem test_jb_taken : runs [0x72, 0x05] (fun s => flg s 1) (fun _ t => t.ip == 0x107) = true := by decide +kernel

/-- R365: JB off its condition. -/
theorem test_jb_not : runs [0x72, 0x05] (fun s => flg s 0) (fun s t => t.ip == 0x102 && t.flags == s.flags) = true := by decide +kernel

/-- R365: JNB on its condition. -/
theorem test_jnb_taken : runs [0x73, 0x05] (fun s => flg s 0) (fun _ t => t.ip == 0x107) = true := by decide +kernel

/-- R365: JNB off its condition, in its alias of R411. -/
theorem test_jnb_not : runs [0x63, 0x05] (fun s => flg s 1) (fun s t => t.ip == 0x102 && t.flags == s.flags) = true := by decide +kernel

/-- R365: JZ on its condition. -/
theorem test_jz_taken : runs [0x74, 0x05] (fun s => flg s 0x40) (fun _ t => t.ip == 0x107) = true := by decide +kernel

/-- R365: JZ off its condition. -/
theorem test_jz_not : runs [0x74, 0x05] (fun s => flg s 0) (fun s t => t.ip == 0x102 && t.flags == s.flags) = true := by decide +kernel

/-- R365: JNZ on its condition. -/
theorem test_jnz_taken : runs [0x75, 0x05] (fun s => flg s 0) (fun _ t => t.ip == 0x107) = true := by decide +kernel

/-- R365: JNZ off its condition, in its alias of R411. -/
theorem test_jnz_not : runs [0x65, 0x05] (fun s => flg s 0x40) (fun s t => t.ip == 0x102 && t.flags == s.flags) = true := by decide +kernel

/-- R365: JBE on its condition. -/
theorem test_jbe_taken : runs [0x76, 0x05] (fun s => flg s 0x40) (fun _ t => t.ip == 0x107) = true := by decide +kernel

/-- R365: JBE off its condition. -/
theorem test_jbe_not : runs [0x76, 0x05] (fun s => flg s 0) (fun s t => t.ip == 0x102 && t.flags == s.flags) = true := by decide +kernel

/-- R365: JNBE on its condition. -/
theorem test_jnbe_taken : runs [0x77, 0x05] (fun s => flg s 0) (fun _ t => t.ip == 0x107) = true := by decide +kernel

/-- R365: JNBE off its condition, in its alias of R411. -/
theorem test_jnbe_not : runs [0x67, 0x05] (fun s => flg s 1) (fun s t => t.ip == 0x102 && t.flags == s.flags) = true := by decide +kernel

/-- R365: JS on its condition. -/
theorem test_js_taken : runs [0x78, 0x05] (fun s => flg s 0x80) (fun _ t => t.ip == 0x107) = true := by decide +kernel

/-- R365: JS off its condition. -/
theorem test_js_not : runs [0x78, 0x05] (fun s => flg s 0) (fun s t => t.ip == 0x102 && t.flags == s.flags) = true := by decide +kernel

/-- R365: JNS on its condition. -/
theorem test_jns_taken : runs [0x79, 0x05] (fun s => flg s 0) (fun _ t => t.ip == 0x107) = true := by decide +kernel

/-- R365: JNS off its condition, in its alias of R411. -/
theorem test_jns_not : runs [0x69, 0x05] (fun s => flg s 0x80) (fun s t => t.ip == 0x102 && t.flags == s.flags) = true := by decide +kernel

/-- R365: JP on its condition. -/
theorem test_jp_taken : runs [0x7A, 0x05] (fun s => flg s 4) (fun _ t => t.ip == 0x107) = true := by decide +kernel

/-- R365: JP off its condition. -/
theorem test_jp_not : runs [0x7A, 0x05] (fun s => flg s 0) (fun s t => t.ip == 0x102 && t.flags == s.flags) = true := by decide +kernel

/-- R365: JNP on its condition. -/
theorem test_jnp_taken : runs [0x7B, 0x05] (fun s => flg s 0) (fun _ t => t.ip == 0x107) = true := by decide +kernel

/-- R365: JNP off its condition, in its alias of R411. -/
theorem test_jnp_not : runs [0x6B, 0x05] (fun s => flg s 4) (fun s t => t.ip == 0x102 && t.flags == s.flags) = true := by decide +kernel

/-- R365: JL on its condition. -/
theorem test_jl_taken : runs [0x7C, 0x05] (fun s => flg s 0x80) (fun _ t => t.ip == 0x107) = true := by decide +kernel

/-- R365: JL off its condition. -/
theorem test_jl_not : runs [0x7C, 0x05] (fun s => flg s 0x880) (fun s t => t.ip == 0x102 && t.flags == s.flags) = true := by decide +kernel

/-- R365: JNL on its condition. -/
theorem test_jnl_taken : runs [0x7D, 0x05] (fun s => flg s 0x880) (fun _ t => t.ip == 0x107) = true := by decide +kernel

/-- R365: JNL off its condition, in its alias of R411. -/
theorem test_jnl_not : runs [0x6D, 0x05] (fun s => flg s 0x800) (fun s t => t.ip == 0x102 && t.flags == s.flags) = true := by decide +kernel

/-- R365: JLE on its condition. -/
theorem test_jle_taken : runs [0x7E, 0x05] (fun s => flg s 0x800) (fun _ t => t.ip == 0x107) = true := by decide +kernel

/-- R365: JLE off its condition. -/
theorem test_jle_not : runs [0x7E, 0x05] (fun s => flg s 0) (fun s t => t.ip == 0x102 && t.flags == s.flags) = true := by decide +kernel

/-- R365: JNLE on its condition. -/
theorem test_jnle_taken : runs [0x7F, 0x05] (fun s => flg s 0x880) (fun _ t => t.ip == 0x107) = true := by decide +kernel

/-- R365: JNLE off its condition, in its alias of R411. -/
theorem test_jnle_not : runs [0x6F, 0x05] (fun s => flg s 0x40) (fun s t => t.ip == 0x102 && t.flags == s.flags) = true := by decide +kernel

/-- R390-R396: CLC writes its one flag. -/
theorem test_clc : runs [0xF8] (fun s => flg s 0xED7) (fun _ t => t.flags == flagsImage 0xED6) = true := by decide +kernel

/-- R390-R396: STC writes its one flag. -/
theorem test_stc : runs [0xF9] (fun s => flg s 0) (fun _ t => t.flags == flagsImage 1) = true := by decide +kernel

/-- R390-R396: CMC writes its one flag. -/
theorem test_cmc : runs [0xF5] (fun s => flg s 1) (fun _ t => t.flags == flagsImage 0) = true := by decide +kernel

/-- R390-R396: CLD writes its one flag. -/
theorem test_cld : runs [0xFC] (fun s => flg s 0x400) (fun _ t => t.flags == flagsImage 0) = true := by decide +kernel

/-- R390-R396: STD writes its one flag. -/
theorem test_std : runs [0xFD] (fun s => flg s 0) (fun _ t => t.flags == flagsImage 0x400) = true := by decide +kernel

/-- R390-R396: CLI writes its one flag. -/
theorem test_cli : runs [0xFA] (fun s => flg s 0x200) (fun _ t => t.flags == flagsImage 0) = true := by decide +kernel

/-- V216, first step: INTR waits one instruction after STI. -/
theorem test_sti_v216 : runs [0xFB] (fun s => { s with inputs := [inp false true true (some 8)] })
    (fun _ t => t.flag .intf && t.ip == 0x101 && t.entry == none) = true := by decide +kernel

/-- V217: without STI_SHADOW it does not. -/
theorem test_sti_v217 : runs [0xFB] (fun s => { s with inputs := [inp false true true (some 8)], cfg := { s.cfg with stiShadow := false } })
    (fun _ t => t.entry == some ⟨.intr, 0x101⟩) = true := by decide +kernel

/-- V258: INTR before the trap, which is dropped. -/
theorem test_nop_v258 : runs [0x90] (fun s => { flg s 0x300 with inputs := [inp false true true (some 8)] })
    (fun _ t => t.entry == some ⟨.intr, 0x101⟩ && !t.intr.trapPending && t.intr.intaVector == some 8) = true := by decide +kernel

/-- V258, the entry: the type is the byte of the second INTA cycle. -/
theorem test_entry_intr : (match step { poke (flg start 0x300) 0x20 [0, 2, 1, 0x10] with ip := 0x101, entry := some ⟨.intr, 0x101⟩, intr := { start.intr with intaVector := some 8 } } with
    | .next t => t.segs.cs == 0x1001 && t.ip == 0x200 && w16 t 0xFFE == 0xF302 && w16 t 0xFFA == 0x101 && t.flags == 0xF002 && t.reg16 .sp == 0xFFA && t.entry == none
    | .fault _ => false
    | .refused _ => false) = true := by decide +kernel

/-- V259: the single-step trap is recognised. -/
theorem test_nop_v259 : runs [0x90] (fun s => flg s 0x100) (fun _ t => t.entry == some ⟨.trap, 0x101⟩) = true := by decide +kernel

/-- V259, the entry. -/
theorem test_entry_trap : (match step { poke (flg start 0x100) 4 [0, 2, 1, 0x10] with ip := 0x101, entry := some ⟨.trap, 0x101⟩ } with
    | .next t => t.segs.cs == 0x1001 && t.ip == 0x200 && !t.flag .tf && w16 t 0xFFE == 0xF102 && w16 t 0xFFA == 0x101
    | .fault _ => false
    | .refused _ => false) = true := by decide +kernel

/-- R96, R473: the interrupt controller stub's request is INTR too. -/
theorem test_intr_stub : runs [0x90] (fun s => { flg s 0x200 with devtm := { s.devtm with intr := true } })
    (fun _ t => t.entry == some ⟨.intr, 0x101⟩) = true := by decide +kernel

/-- V265: IF = 0, so INTR does not end the halt. -/
theorem test_hlt_v265 : runs [0xF4] (fun s => { s with inputs := [inp false true true none] })
    (fun _ t => t.intr.halted && t.ip == 0x101) = true := by decide +kernel

/-- R398: TEST not asserted. -/
theorem test_wait_goes_on : runs [0x9B] (fun s => { s with inputs := [inp false false false none] })
    (fun _ t => t.waiting && t.ip == 0x101 && t.driver.instructions == 0) = true := by decide +kernel

/-- V270, last step: NMI while waiting saves the offset of the WAIT instruction. -/
theorem test_wait_v270 : (match step { start with waiting := true, ip := 0x101, pfx := ⟨none, none, false, some 0x100, none⟩, inputs := [inp true false false none] } with
    | .next t => !t.waiting && w16 t 0xFFA == 0x100 && t.pfx == Pfx.clear
    | .fault _ => false
    | .refused _ => false) = true := by decide +kernel

/-- R399: nothing changes. -/
theorem test_esc : runs [0xD9, 0x06, 0x34, 0x12] (fun s => s)
    (fun s t => t.regs == s.regs && t.mem == s.mem && t.flags == s.flags && t.ip == 0x104) = true := by decide +kernel

/-- R142, R400: one step takes the prefixes and their instruction; the last override wins. -/
theorem test_prefix_es : runs [0x2E, 0x26, 0x8A, 0x07] (fun s => poke (s.setSeg .es 0x1000) 0x10000 [0x5A])
    (fun _ t => t.reg8 .al == 0x5A && t.ip == 0x104 && t.driver.instructions == 1 && t.pfx == Pfx.clear) = true := by decide +kernel

/-- R400: CS:. -/
theorem test_prefix_cs : runs [0x2E, 0xA0, 0x00, 0x01] (fun s => s.setSeg .ds 0x1000) (fun _ t => t.reg8 .al == 0x2E && t.ip == 0x104) = true := by decide +kernel

/-- R400: SS:. -/
theorem test_prefix_ss : runs [0x36, 0x8A, 0x07] (fun s => poke (s.setSeg .ss 0x1000) 0x10000 [0x5A]) (fun _ t => t.reg8 .al == 0x5A) = true := by decide +kernel

/-- R400: DS: where BP is a base. -/
theorem test_prefix_ds : runs [0x3E, 0x8A, 0x46, 0x00] (fun s => poke (s.setSeg .ds 0x1000) 0x10000 [0x5A]) (fun _ t => t.reg8 .al == 0x5A) = true := by decide +kernel

/-- R403, V154. -/
theorem test_prefix_repne : runs [0xF2, 0xAE] (fun s => poke ((setR (setR s .cx 0x10) .di 0).setSeg .es 0x1000) 0x10000 [1, 2, 3, 0])
    (fun _ t => t.reg16 .cx == 0xC && t.reg16 .di == 4 && t.ip == 0x102) = true := by decide +kernel

/-- R403, V149. -/
theorem test_prefix_rep : runs [0xF3, 0xA4] (fun s => poke (setR (setR (setR s .si 0x180) .di 0x200) .cx 3) 0x180 [1, 2, 3])
    (fun _ t => b8 t 0x202 == 3 && t.reg16 .cx == 0 && t.reg16 .si == 0x183 && t.driver.instructions == 1) = true := by decide +kernel

/-- R401: LOCK changes nothing of what the instruction does. -/
theorem test_prefix_lock : runs [0xF0, 0x40] (fun s => s) (fun _ t => t.reg16 .ax == 1 && t.ip == 0x102 && t.pfx == Pfx.clear) = true := by decide +kernel

/-- R421: FE /2 is refused, under UNDOC_MODE = silicon too. -/
theorem test_fe2 : refuses [0xFE, 0xD0] (fun s => s) .feGroup = true := by decide +kernel

/-- R423: LEA of a register. -/
theorem test_lea_reg : refuses [0x8D, 0xC0] (fun s => s) .registerOperand = true := by decide +kernel

/-- R424: IMUL under a repeat prefix. -/
theorem test_rep_imul : refuses [0xF6, 0xEB] (fun s => withPfx s none (some .repe) false) .repBeforeImulIdiv = true := by decide +kernel

/-- R3, R410, V251: under UNDOC_MODE = refuse, the default. -/
theorem test_salc_refused : (match step (State.reset.withCode [0xD6]) with
    | .next _ => false
    | .fault _ => false
    | .refused x => x == .undocumentedEncoding) = true := by decide +kernel

/-- R410, R421: so are the encodings both modes refuse. -/
theorem test_fe2_refused : (match step (State.reset.withCode [0xFE, 0xD0]) with
    | .next _ => false
    | .fault _ => false
    | .refused x => x == .undocumentedEncoding) = true := by decide +kernel

/-- R491, R494: the first instruction after reset is at FFFF0h. -/
theorem test_reset_fetch : State.reset.fetchAddr 0 = 0xFFFF0#20 := by decide


/-! ## Flags where one of them is undefined

The undefined flag is a free value, so the kernel cannot run these steps to their flags. Each shared operation is tested on every flag the rule defines. -/

/-- What a shift by at least 1 does to the flags other than AF. -/
theorem shift_flags {w : Nat} (op : ShiftOp) (n : Nat) (v : BitVec w) (s : State) (h : op.isShift = true) {f : Flag} (hf : f ≠ .af) :
    (shiftBy op (n + 1) v s).2.flag f =
      (State.szp (if n = 0 then (s.setFlag .cf (shiftStep op (shiftSteps op n ⟨v, s.flag .cf⟩)).cf).setFlag .ovf (shiftOf op (shiftSteps op n ⟨v, s.flag .cf⟩))
        else (s.setFlag .cf (shiftStep op (shiftSteps op n ⟨v, s.flag .cf⟩)).cf).undefFlag .ovf (some (shiftOf op (shiftSteps op n ⟨v, s.flag .cf⟩))))
        (shiftStep op (shiftSteps op n ⟨v, s.flag .cf⟩)).v).flag f := by
  simp only [shiftBy, h, if_true]; exact State.undefFlag_other _ none hf

/-- V32, R300. -/
theorem test_and_v32_flags (f : Flag) (h : f ≠ .af) : (start.logicFlags (0x8001#16 &&& 0xFFFF#16)).flag f = (flagsImage 0x80).getLsbD f.bit := by
  unfold State.logicFlags; rw [State.undefFlag_other _ none h]; revert h; cases f <;> decide +kernel

/-- V38, R300. -/
theorem test_and_v38_flags (f : Flag) (h : f ≠ .af) : (start.logicFlags (0x1234#16 &&& 0xFF80#16)).flag f = (flagsImage 0x04).getLsbD f.bit := by
  unfold State.logicFlags; rw [State.undefFlag_other _ none h]; revert h; cases f <;> decide +kernel

/-- V33, R300. -/
theorem test_or_v33_flags (f : Flag) (h : f ≠ .af) : (start.logicFlags (0#8 ||| 0#8)).flag f = (flagsImage 0x44).getLsbD f.bit := by
  unfold State.logicFlags; rw [State.undefFlag_other _ none h]; revert h; cases f <;> decide +kernel

/-- V34, R300. -/
theorem test_or_v34_flags (f : Flag) (h : f ≠ .af) : (start.logicFlags (0x40#8 ||| 3#8)).flag f = (flagsImage 0).getLsbD f.bit := by
  unfold State.logicFlags; rw [State.undefFlag_other _ none h]; revert h; cases f <;> decide +kernel

/-- V35, R300. -/
theorem test_xor_v35_flags (f : Flag) (h : f ≠ .af) : (start.logicFlags (0xAAAA#16 ^^^ 0x5555#16)).flag f = (flagsImage 0x84).getLsbD f.bit := by
  unfold State.logicFlags; rw [State.undefFlag_other _ none h]; revert h; cases f <;> decide +kernel

/-- V36, R300. -/
theorem test_xor_v36_flags (f : Flag) (h : f ≠ .af) : (start.logicFlags (0x5A#8 ^^^ 0x5A#8)).flag f = (flagsImage 0x44).getLsbD f.bit := by
  unfold State.logicFlags; rw [State.undefFlag_other _ none h]; revert h; cases f <;> decide +kernel

/-- V37, R300. -/
theorem test_test_v37_flags (f : Flag) (h : f ≠ .af) : (start.logicFlags (0x81#8 &&& 0x80#8)).flag f = (flagsImage 0x80).getLsbD f.bit := by
  unfold State.logicFlags; rw [State.undefFlag_other _ none h]; revert h; cases f <;> decide +kernel

/-- V50. -/
theorem test_shl_v50_flags (f : Flag) (h : f ≠ .af) : ((shiftBy .shl 9 0xFF#8 (start.setFlag .cf true)).2).flag f = (flagsImage 0x44).getLsbD f.bit := by
  rw [shift_flags _ _ _ _ rfl h]; revert h; cases f <;> decide +kernel

/-- V51. -/
theorem test_shl_v51_flags (f : Flag) (h : f ≠ .af) : ((shiftBy .shl 255 0x8000#16 start).2).flag f = (flagsImage 0x44).getLsbD f.bit := by
  rw [shift_flags _ _ _ _ rfl h]; revert h; cases f <;> decide +kernel

/-- V53. -/
theorem test_shr_v53_flags (f : Flag) (h : f ≠ .af) : ((shiftBy .shr 7 0x80#8 start).2).flag f = (flagsImage 0).getLsbD f.bit := by
  rw [shift_flags _ _ _ _ rfl h]; revert h; cases f <;> decide +kernel

/-- V54. -/
theorem test_shr_v54_flags (f : Flag) (h : f ≠ .af) : ((shiftBy .shr 16 0xFFFF#16 start).2).flag f = (flagsImage 0x45).getLsbD f.bit := by
  rw [shift_flags _ _ _ _ rfl h]; revert h; cases f <;> decide +kernel

/-- V56. -/
theorem test_sar_v56_flags (f : Flag) (h : f ≠ .af) : ((shiftBy .sar 8 0x80#8 start).2).flag f = (flagsImage 0x85).getLsbD f.bit := by
  rw [shift_flags _ _ _ _ rfl h]; revert h; cases f <;> decide +kernel

/-- V57. -/
theorem test_sar_v57_flags (f : Flag) (h : f ≠ .af) : ((shiftBy .sar 200 0x7F#8 (start.setFlag .cf true)).2).flag f = (flagsImage 0x44).getLsbD f.bit := by
  rw [shift_flags _ _ _ _ rfl h]; revert h; cases f <;> decide +kernel

/-- V59. -/
theorem test_mul_v59_flags (f : Flag) (h : f ∉ ([.sf, .zf, .af, .pf] : List Flag)) : (((start.setReg8 .al 0xFF).setReg8 .bl 0xFF).multiply8 mulProduct8 mulWide8 (.reg .bl)).flag f = (flagsImage 0x801).getLsbD f.bit := by
  unfold State.multiply8 State.mulFlags; rw [State.undefList_other _ _ h]; revert h; cases f <;> decide +kernel

/-- V62. -/
theorem test_mul_v62_flags (f : Flag) (h : f ∉ ([.sf, .zf, .af, .pf] : List Flag)) : (((start.setReg16 .ax 0x100).setReg16 .bx 0x100).multiply16 mulProduct16 mulWide16 (.reg .bx)).flag f = (flagsImage 0x801).getLsbD f.bit := by
  unfold State.multiply16 State.mulFlags; rw [State.undefList_other _ _ h]; revert h; cases f <;> decide +kernel

/-- V63. -/
theorem test_imul_v63_flags (f : Flag) (h : f ∉ ([.sf, .zf, .af, .pf] : List Flag)) : (((start.setReg8 .al 0x80).setReg8 .bl 0xFF).multiply8 imulProduct8 imulWide8 (.reg .bl)).flag f = (flagsImage 0x801).getLsbD f.bit := by
  unfold State.multiply8 State.mulFlags; rw [State.undefList_other _ _ h]; revert h; cases f <;> decide +kernel

/-- V67. -/
theorem test_imul_v67_flags (f : Flag) (h : f ∉ ([.sf, .zf, .af, .pf] : List Flag)) : (((start.setReg16 .ax 0x8000).setReg16 .bx 0xFFFF).multiply16 imulProduct16 imulWide16 (.reg .bx)).flag f = (flagsImage 0x801).getLsbD f.bit := by
  unfold State.multiply16 State.mulFlags; rw [State.undefList_other _ _ h]; revert h; cases f <;> decide +kernel

/-- V84. -/
theorem test_aaa_v84_flags (f : Flag) (h : f ∉ ([.ovf, .sf, .zf, .pf] : List Flag)) : ((start.setReg16 .ax 0xFF).asciiAdjust (· + 6) (· + 1)).flag f = (flagsImage 0x11).getLsbD f.bit := by
  unfold State.asciiAdjust; rw [State.undefList_other _ _ h]; revert h; cases f <;> decide +kernel

/-- V86. -/
theorem test_aas_v86_flags (f : Flag) (h : f ∉ ([.ovf, .sf, .zf, .pf] : List Flag)) : (((start.setReg16 .ax 0x100).setFlag .af true).asciiAdjust (· - 6) (· - 1)).flag f = (flagsImage 0x11).getLsbD f.bit := by
  unfold State.asciiAdjust; rw [State.undefList_other _ _ h]; revert h; cases f <;> decide +kernel

/-- V89. -/
theorem test_daa_v89_flags (f : Flag) (h : f ≠ .ovf) : ((start.setReg8 .al 0x9A).decimalAdd).flag f = (flagsImage 0x55).getLsbD f.bit := by
  unfold State.decimalAdd; rw [State.undefFlag_other _ none h]; revert h; cases f <;> decide +kernel

/-- V93. -/
theorem test_daa_v93_flags (f : Flag) (h : f ≠ .ovf) : ((start.setReg8 .al 0xFA).decimalAdd).flag f = (flagsImage 0x15).getLsbD f.bit := by
  unfold State.decimalAdd; rw [State.undefFlag_other _ none h]; revert h; cases f <;> decide +kernel

/-- V94. -/
theorem test_das_v94_flags (f : Flag) (h : f ≠ .ovf) : (((start.setReg8 .al 0).setFlag .af true).decimalSub).flag f = (flagsImage 0x95).getLsbD f.bit := by
  unfold State.decimalSub; rw [State.undefFlag_other _ none h]; revert h; cases f <;> decide +kernel

/-- V96. -/
theorem test_das_v96_flags (f : Flag) (h : f ≠ .ovf) : (((start.setReg8 .al 0x10).setFlag .cf true).decimalSub).flag f = (flagsImage 0x81).getLsbD f.bit := by
  unfold State.decimalSub; rw [State.undefFlag_other _ none h]; revert h; cases f <;> decide +kernel

/-- V99. -/
theorem test_aam_v99_flags (f : Flag) (h : f ∉ ([.ovf, .af, .cf] : List Flag)) : ((start.setReg8 .al 0xFF).asciiMul 10).flag f = (flagsImage 0x04).getLsbD f.bit := by
  unfold State.asciiMul; rw [if_neg (by decide), State.undefList_other _ _ h]; revert h; cases f <;> decide +kernel

/-- V104. -/
theorem test_aad_v104_flags (f : Flag) (h : f ∉ ([.ovf, .af, .cf] : List Flag)) : ((start.setReg16 .ax 0xFFFF).asciiDiv 10).flag f = (flagsImage 0x84).getLsbD f.bit := by
  unfold State.asciiDiv; rw [State.undefList_other _ _ h]; revert h; cases f <;> decide +kernel

/-- V105. -/
theorem test_aad_v105_flags (f : Flag) (h : f ∉ ([.ovf, .af, .cf] : List Flag)) : ((start.setReg16 .ax 0x0F0F).asciiDiv 16).flag f = (flagsImage 0x84).getLsbD f.bit := by
  unfold State.asciiDiv; rw [State.undefList_other _ _ h]; revert h; cases f <;> decide +kernel

/-- V70, V101: a divide by 0 has no quotient; FFh into 0100h has none of 8 bits either. -/
theorem test_div_error : divQuotient8 0x00FF 0 = none ∧ divQuotient8 0xFF00 0xFF = none ∧ divQuotient8 0xFEFF 0xFF = some (0xFF, 0xFE) := by decide

/-- V79, R266: -32768 by -1 does not fit, and -128 is a divide error at width 8 too. -/
theorem test_idiv_error : idivQuotient16 0xFFFF8000 0xFFFF = none ∧ idivQuotient8 0xFF80 1 = none ∧ idivQuotient8 0xFF81 1 = some (0x81, 0) := by decide

/-- A machine whose TIMING table gives MOVSB under REP, and the entries, schedules of their own. -/
def timed (op : EngOp) : State :=
  { start with
    cfg := { start.cfg with timing := .table [⟨0xA4, none, none, some true, ⟨1, [2, 3], 4, 0⟩⟩] ⟨⟨5, [], 0, 0⟩, ⟨6, [7, 8], 9, 0⟩, ⟨0, [], 0, 0⟩⟩ }
    pfx := { start.pfx with rep := some .repe }
    eng := { start.eng with op := op, bytes := [0xA4] } }

/-- R500: NMI and INTR have a schedule each; the gaps of a repeated string instruction come again in each iteration. -/
theorem test_schedules :
    let at' (op : EngOp) (i : Nat) (last : Bool) := (timed op).internalSteps (timed op) i last
    at' (.entry .nmi 0) 0 false = 5 ∧ at' (.entry .intr 0) 0 false = 6 ∧ at' (.entry .intr 0) 2 false = 8 ∧ at' (.entry .intr 0) 12 true = 9 ∧
      at' (.instr .movsb) 3 false = 2 ∧ at' (.instr .movsb) 4 true = 4 := by decide

/-- R84, R97: a refresh of a device address is recorded at the instruction level too, its data discarded; of RAM it leaves no trace but the dropped request. -/
theorem test_refresh_recorded :
    let s : State := { start with cfg := { start.cfg with addrMap := [⟨0xA0000, 16, .mmio 1, 0, none⟩] }, hostLines := ⟨[], some 0xA0001⟩ }
    s.serveDma.events.map (fun e => (e.space, e.dir, e.addr)) = [(.memory, .read, 0xA0001)] ∧ s.serveDma.hostLines.refresh = none ∧
      { start with hostLines := ⟨[], some 0xA0001⟩ }.serveDma = start := by decide

/-- R43, R111: the tick that refuses an encoding has taken its byte and is no stall (D6 under UNDOC_MODE = refuse). -/
theorem test_refused_tick :
    let s : State := { start with
      cfg := { start.cfg with undocMode := .refuse }
      biu := { start.biu with queue := ⟨[0xD6, 0, 0, 0], 0, 1, 1⟩ }
      eng := { start.eng with stalled := true } }
    s.stepCycle.driver.status = .refused .undocumentedEncoding ∧ s.stepCycle.eng.stalled = false := by decide


/-! ## Witnesses

For each statement with hypotheses, a state and operands that meet them, clause by clause, at the ends of their ranges. `demo` has the segments apart and all
memory RAM, so its operands are plain wherever they are. -/

/-- ES, CS, SS, DS apart; IP and SP at the ends of their segments; offsets in BX, BP, SI, DI at the ends too. -/
def demo : State :=
  { State.initial { Params.atReset with undocMode := .silicon } [] ⟨0x0100, 1, 0, 0xFFFF, 0, 0x8000, 0xFFFF, 0⟩ with
    segs := ⟨0x2000, 0x1000, 0x3000, 0xFFFF⟩, ip := 0xFFFF, biu := ⟨Queue.empty 4, 0xFFFF, false, false, false⟩ }

/-- Under UNDOC_MODE = refuse. -/
def demoRefuse : State := { demo with cfg := { demo.cfg with undocMode := .refuse } }

/-- With one memory region. -/
def demoMap (k : RegionKind) : State := { demo with cfg := { demo.cfg with addrMap := [⟨0, 0x100000, k, 0, none⟩] } }

/-- With a repeat prefix two bytes before IP. -/
def demoRep (r : Rep) (cx : Word) : State := { demo.setReg16 .cx cx with pfx := ⟨none, some r, false, some 0xFFFD, some 0xFFFE⟩ }

/-- With the bytes at CS:IP. -/
def demoCode (bs : List Byte) : State := demo.withCode bs

/-- Where all memory is RAM every address is plain. -/
theorem ram_plain (s : State) (h : s.cfg.addrMap = [⟨0, 0x100000, .ram, 0, none⟩]) (g o : Word) : s.plainAt g o := by
  unfold State.plainAt Params.memKind Params.region
  rw [h]
  have : (phys g o).toNat < 0x100000 := (phys g o).isLt
  simp [plainKind, List.find?, Params.fitted, this]

/-- And so every word. -/
theorem ram_plainWord (s : State) (h : s.cfg.addrMap = [⟨0, 0x100000, .ram, 0, none⟩]) (g o : Word) : s.plainWordAt g o := ⟨ram_plain s h g o, ram_plain s h g _⟩

/-- And every place an interrupt entry uses. -/
theorem ram_entry (s : State) (h : s.cfg.addrMap = [⟨0, 0x100000, .ram, 0, none⟩]) (n : Byte) : s.EntryPlain n :=
  ⟨ram_plainWord s h _ _, ram_plainWord s h _ _, ram_plainWord s h _ _, ram_plainWord s h _ _, ram_plainWord s h _ _⟩

/-- What a statement about operands assumes, for every operand form. -/
def Operands (s : State) : Prop :=
  s.Ready ∧ (∀ e : Rm8, s.plainLoc8 (s.locate e)) ∧ (∀ e : Rm16, s.plainLoc16 (s.locate e)) ∧ (∀ g o, s.plainAt g o) ∧ (∀ g o, s.plainWordAt g o) ∧
    s.pushPlain ∧ s.popPlain ∧ ∀ n, s.EntryPlain n

/-- A ready state over RAM meets it. -/
theorem ram_operands (s : State) (h : s.cfg.addrMap = [⟨0, 0x100000, .ram, 0, none⟩]) (r : s.Ready) : Operands s :=
  ⟨r, fun e => by cases e <;> first | trivial | exact ram_plain s h _ _, fun e => by cases e <;> first | trivial | exact ram_plainWord s h _ _,
    ram_plain s h, ram_plainWord s h, ram_plainWord s h _ _, ram_plainWord s h _ _, ram_entry s h⟩

theorem demo_operands : Operands demo := ram_operands demo rfl ⟨rfl, rfl, by decide⟩

theorem demoRefuse_operands : Operands demoRefuse := ram_operands demoRefuse rfl ⟨rfl, rfl, by decide⟩

theorem demo_inv : demo.Inv := ⟨rfl, by decide, nofun, ⟨by decide, by decide, by decide, by decide, by decide⟩, rfl, nofun, by decide, by decide, rfl⟩

theorem witness_DecodeOfEncode : (Instr.addEvIv (.mem (.disp16 .bp 0x8000)) 0xFFFF).wf = true ∧ (Instr.retIw .second 0).wf = true := by decide

theorem witness_EncodeOfDecode : decode [0x81#8, 0x86#8, 0x00#8, 0x80#8, 0xFF#8, 0xFF#8, 0x90#8] =
    .ok (.addEvIv (.mem (.disp16 .bp 0x8000)) 0xFFFF) [0x90#8] := by decide

theorem witness_DecodeTotal : 6 ≤ (List.replicate 6 0x81#8).length := by decide

/-- The code of the next two: EB 05 with its second byte at offset 0000h. -/
theorem demo_code : CodeAt (demoCode [0xEB, 0x05]) [0xEB, 0x05] :=
  ⟨fun _ _ => ram_plain _ rfl _ _, by decide, rfl, rfl⟩

/-- A prefix byte that runs, and one that is refused. -/
theorem prefix_code (b : Byte) (h : (demoCode [b]).byteAt ((demoCode [b]).seg .cs) (demoCode [b]).ip = b) : CodeAt (demoCode [b]) [b] :=
  ⟨fun _ _ => ram_plain _ rfl _ _, fun k hk => by
    obtain rfl : k = 0 := by simpa using hk
    simpa using h, rfl, rfl⟩

theorem witness_StepRunsDecoded : (demoCode [0xEB, 0x05]).entry = none ∧ (demoCode [0xEB, 0x05]).waiting = false ∧ (demoCode [0xEB, 0x05]).intr.halted = false ∧
    (decode [0xEB#8, 0x05#8] = .ok (.jmpJb 0x05#8) [] ∧ CodeAt (demoCode [0xEB, 0x05]) [0xEB, 0x05] ∧ isPrefixInstr (.jmpJb 0x05#8) = false) ∧
    (decode [0xF3#8] = .ok .rep [] ∧ CodeAt (demoCode [0xF3]) [0xF3] ∧ isPrefixInstr .rep = true ∧ ∃ t, exec .rep ((demoCode [0xF3]).beginInstr 1) = .next t) ∧
    (decode [0xF1#8] = .ok (.lock .second) [] ∧ (let s := { demoCode [0xF1] with cfg := { demo.cfg with undocMode := .refuse } };
      CodeAt s [0xF1] ∧ exec (.lock .second) (s.beginInstr 1) = .refused .undocumentedEncoding)) :=
  ⟨rfl, rfl, rfl, ⟨by decide, demo_code, rfl⟩, ⟨by decide, prefix_code _ (by decide), rfl, _, rfl⟩, by decide,
    ⟨fun _ _ => ram_plain _ rfl _ _, by decide, rfl, rfl⟩, rfl⟩

theorem witness_InstrBounds : CodeAt (demoCode [0xEB, 0x05]) [0xEB, 0x05] ∧ (demoCode [0xEB, 0x05]).pfx.start = none ∧
    CodeAt { demoCode [0xEB, 0x05] with pfx := ⟨none, none, true, some 0xFFFE, some 0xFFFE⟩ } [0xEB, 0x05] ∧
    { demo with waiting := true }.waiting = true ∧ demo.waiting = false ∧ demo.entry = none ∧ { demo with entry := some ⟨.nmi, 0⟩ }.entry ≠ none ∧
    { demo with entered := .abandoned }.entered = .abandoned ∧ demo.entered ≠ .abandoned :=
  ⟨demo_code, rfl, ⟨fun _ _ => ram_plain _ rfl _ _, by decide, rfl, rfl⟩, rfl, rfl, rfl, by decide, rfl, by decide⟩

theorem witness_StepKeepsInv : demo.Inv ∧ demo.eng.start = none ∧ ∃ t, step demo = .next t := by
  refine ⟨demo_inv, rfl, ?_⟩
  have h : (match step demo with | .next _ => true | .fault _ => false | .refused _ => false) = true := by decide +kernel
  revert h; cases step demo <;> simp

theorem witness_TickKeepsInv : demo.Inv := demo_inv

theorem witness_AddForms : Operands demo := demo_operands

theorem witness_SubForms : Operands demo := demo_operands

theorem witness_LogicForms : Operands demo := demo_operands

theorem witness_TestForms : Operands demo ∧ demo.admits .second ∧ Operands demoRefuse ∧ demoRefuse.admits .main :=
  ⟨demo_operands, .inr rfl, demoRefuse_operands, .inl rfl⟩

theorem witness_IncDecForms : Operands demo := demo_operands

theorem witness_NegNotForms : Operands demo := demo_operands

/-- Counts 1 (as D0 and by CL), 255 and 0; the value of OF for a count above 1 under either setting of UNDEF_FLAGS. -/
theorem witness_ShiftForms : Operands demo ∧ countOf demo .one = 1 ∧ countOf (demo.setReg8 .cl 1) .cl = 1 ∧ countOf (demo.setReg8 .cl 0xFF) .cl = 255 ∧
    (demo.setReg8 .cl 0).reg8 .cl = 0#8 ∧ demo.cfg.undefFlags = .draw ∧ start.cfg.undefFlags = .silicon := ⟨demo_operands, by decide⟩

theorem witness_MulForms : Operands demo ∧ demo.pfx.rep = none := ⟨demo_operands, rfl⟩

/-- Quotients FFh and FFFFh; 127 and -127; 32767 and -32767. -/
theorem witness_DivForms : Operands demo ∧ demo.pfx.rep = none ∧
    (let s := (demo.setReg16 .ax 0xFEFF).setReg8 .cl 0xFF; s.valueAt8 (s.locate (.reg .cl)) ≠ 0 ∧ (s.reg16 .ax).toNat / (s.valueAt8 (s.locate (.reg .cl))).toNat = 2 ^ 8 - 1) ∧
    (let s := ((demo.setReg16 .dx 0xFFFE).setReg16 .ax 0xFFFF).setReg16 .cx 0xFFFF; s.valueAt16 (s.locate (.reg .cx)) ≠ 0 ∧
      (s.reg16 .dx ++ s.reg16 .ax).toNat / (s.valueAt16 (s.locate (.reg .cx))).toNat = 2 ^ 16 - 1) ∧
    (let s := (demo.setReg16 .ax 127).setReg8 .cl 1; s.valueAt8 (s.locate (.reg .cl)) ≠ 0 ∧ (s.reg16 .ax).toInt.tdiv (s.valueAt8 (s.locate (.reg .cl))).toInt = 127) ∧
    (let s := (demo.setReg16 .ax 127).setReg8 .cl 0xFF; s.valueAt8 (s.locate (.reg .cl)) ≠ 0 ∧ (s.reg16 .ax).toInt.tdiv (s.valueAt8 (s.locate (.reg .cl))).toInt = -127) ∧
    (let s := (demo.setReg16 .ax 0x7FFF).setReg16 .cx 1; s.valueAt16 (s.locate (.reg .cx)) ≠ 0 ∧
      (s.reg16 .dx ++ s.reg16 .ax).toInt.tdiv (s.valueAt16 (s.locate (.reg .cx))).toInt = 32767) ∧
    (let s := (demo.setReg16 .ax 0x7FFF).setReg16 .cx 0xFFFF; s.valueAt16 (s.locate (.reg .cx)) ≠ 0 ∧
      (s.reg16 .dx ++ s.reg16 .ax).toInt.tdiv (s.valueAt16 (s.locate (.reg .cx))).toInt = -32767) := ⟨demo_operands, rfl, by decide⟩

/-- Divisors of 0; quotients 100h and 10000h; 128 and -128; 32768 and -32768. -/
theorem witness_DivideErrors : Operands demo ∧ demo.EntryPlain 0#8 ∧ demo.pfx.rep = none ∧
    (let s := demo.setReg8 .cl 0; s.valueAt8 (s.locate (.reg .cl)) = 0) ∧ (let s := demo.setReg16 .cx 0; s.valueAt16 (s.locate (.reg .cx)) = 0) ∧
    (let s := (demo.setReg16 .ax 0x100).setReg8 .cl 1; 2 ^ 8 = (s.reg16 .ax).toNat / (s.valueAt8 (s.locate (.reg .cl))).toNat) ∧
    (let s := ((demo.setReg16 .dx 1).setReg16 .ax 0).setReg16 .cx 1; 2 ^ 16 = (s.reg16 .dx ++ s.reg16 .ax).toNat / (s.valueAt16 (s.locate (.reg .cx))).toNat) ∧
    (let s := (demo.setReg16 .ax 128).setReg8 .cl 1; (s.reg16 .ax).toInt.tdiv (s.valueAt8 (s.locate (.reg .cl))).toInt = 128) ∧
    (let s := (demo.setReg16 .ax 128).setReg8 .cl 0xFF; (s.reg16 .ax).toInt.tdiv (s.valueAt8 (s.locate (.reg .cl))).toInt = -128) ∧
    (let s := (demo.setReg16 .ax 0x8000).setReg16 .cx 1; (s.reg16 .dx ++ s.reg16 .ax).toInt.tdiv (s.valueAt16 (s.locate (.reg .cx))).toInt = 32768) ∧
    (let s := (demo.setReg16 .ax 0x8000).setReg16 .cx 0xFFFF;
      (s.reg16 .dx ++ s.reg16 .ax).toInt.tdiv (s.valueAt16 (s.locate (.reg .cx))).toInt = -32768) := ⟨demo_operands, demo_operands.2.2.2.2.2.2.2 0, rfl, by decide⟩

theorem witness_AdjustAndExtend : (1#8 : Byte) ≠ 0 ∧ (0xFF#8 : Byte) ≠ 0 := by decide

/-- Encodings with reg 0 under either mode, and with another reg under UNDOC_MODE = silicon. -/
theorem witness_MovForms : Operands demo ∧ (7#3 = 0#3 ∨ demo.cfg.undocMode = .silicon) ∧ demo.admits .second ∧
    Operands demoRefuse ∧ ((0#3 : BitVec 3) = 0#3 ∨ demoRefuse.cfg.undocMode = .silicon) ∧ demoRefuse.admits .main :=
  ⟨demo_operands, .inr rfl, .inr rfl, demoRefuse_operands, .inl rfl, .inl rfl⟩

theorem witness_MovOffsetForms : demo.Ready ∧ demo.plainAt (demo.operandSeg .ds) 0xFFFF ∧ demo.plainWordAt (demo.operandSeg .ds) 0xFFFF :=
  ⟨demo_operands.1, ram_plain _ rfl _ _, ram_plainWord _ rfl _ _⟩

theorem witness_SegmentLoads : Operands demo ∧ SReg.ss ≠ .cs ∧ demo.admits .main ∧ demo.admits .second ∧
    demo.plainWordAt (demo.operandSeg .ds) 0xFFFD ∧ demo.plainWordAt (demo.operandSeg .ds) (0xFFFD + 2) :=
  ⟨demo_operands, by decide, .inl rfl, .inr rfl, ram_plainWord _ rfl _ _, ram_plainWord _ rfl _ _⟩

/-- SP = 0, so that the push wraps to FFFEh. -/
theorem witness_PushForms : Operands demo ∧ demo.reg16 .sp = 0 ∧ Reg16.ax ≠ .sp ∧ demo.admits .second ∧ (Rm.reg Reg16.sp) = .reg .sp ∧ Rm.reg Reg16.ax ≠ .reg .sp ∧
    Operands demoRefuse ∧ demoRefuse.admits .main := ⟨demo_operands, rfl, by decide, .inr rfl, rfl, by decide, demoRefuse_operands, .inl rfl⟩

theorem witness_PopForms : Operands demo ∧ (7#3 = 0#3 ∨ demo.cfg.undocMode = .silicon) ∧ Operands demoRefuse ∧
    ((0#3 : BitVec 3) = 0#3 ∨ demoRefuse.cfg.undocMode = .silicon) ∧ Reg16.ax ≠ .sp ∧ Rm.reg Reg16.ax ≠ .reg .sp :=
  ⟨demo_operands, .inr rfl, demoRefuse_operands, .inl rfl, by decide, by decide⟩

theorem witness_Exchanges : Operands demo := demo_operands

theorem witness_LoadsAndFlagBytes : Operands demo ∧ demo.plainAt (demo.operandSeg .ds) (demo.reg16 .bx + (demo.reg8 .al).setWidth 16) :=
  ⟨demo_operands, ram_plain _ rfl _ _⟩

/-- A port that a device serves, and one that nothing serves, whose read has a constant. -/
theorem witness_PortForms : demo.Direct ∧ demo.cfg.portKind (portAddr 0xFFFF) = .io 0 ∧ (noPorts demo).Direct ∧
    (noPorts demo).cfg.portKind (portAddr 0xFFFF) = .none ∧ (noPorts demo).cfg.openBus = .const 0xFF := ⟨rfl, by decide, rfl, by decide, rfl⟩

theorem witness_CsWrites : Operands demo ∧ demo.cfg.undocMode = .silicon := ⟨demo_operands, rfl⟩

theorem witness_StringOnce : Operands demo ∧ demo.pfx.rep = none := ⟨demo_operands, rfl⟩

/-- Whether one iteration of `i` in `s` completes in a state of which `g` holds. -/
def iterates (i : Instr) (s : State) (g : State → Bool) : Bool :=
  match exec i { s with pfx := { s.pfx with rep := none } } with
  | .next u => g u
  | .fault _ => false
  | .refused _ => false

/-- From what `iterates` says: the state after the iteration. -/
theorem iterates_next {i : Instr} {s : State} {g : State → Bool} (h : iterates i s g = true) :
    ∃ u, exec i { s with pfx := { s.pfx with rep := none } } = .next u ∧ g u = true := by
  unfold iterates at h; split at h
  · exact ⟨_, ‹_›, h⟩
  · cases h
  · cases h

/-- CX = 0; CX = 1; an end by ZF = 0 under REPE and by ZF = 1 under REPNE with CX = 2; going on with CX = FFFFh. -/
theorem witness_RepeatLoop :
    (∃ u, exec .movsb { demoRep .repe 0 with pfx := { (demoRep .repe 0).pfx with rep := none } } = .next u ∧ (demoRep .repe 0).Direct ∧ (demoRep .repe 0).reg16 .cx = 0) ∧
    (∃ u, exec .lodsw { demoRep .repne 1 with pfx := { (demoRep .repne 1).pfx with rep := none } } = .next u ∧ (demoRep .repne 1).reg16 .cx = 1) ∧
    (∃ u, exec .scasb { (demoRep .repe 2).setReg8 .al 1 with pfx := { ((demoRep .repe 2).setReg8 .al 1).pfx with rep := none } } = .next u ∧ u.flag .zf = false) ∧
    (∃ u, exec .cmpsw { demoRep .repne 2 with pfx := { (demoRep .repne 2).pfx with rep := none } } = .next u ∧ u.flag .zf = true) ∧
    (∃ u, exec .stosb { demoRep .repe 0xFFFF with pfx := { (demoRep .repe 0xFFFF).pfx with rep := none } } = .next u ∧
      ({ u with pfx := (demoRep .repe 0xFFFF).pfx }.setReg16 .cx ((demoRep .repe 0xFFFF).reg16 .cx - 1)).sampleInputs.serveDma.pollDecision = .go) := by
  refine ⟨?_, ?_, ?_, ?_, ?_⟩
  · obtain ⟨u, h, _⟩ := iterates_next (i := .movsb) (s := demoRep .repe 0) (g := fun _ => true) (by decide +kernel); exact ⟨u, h, rfl, rfl⟩
  · obtain ⟨u, h, _⟩ := iterates_next (i := .lodsw) (s := demoRep .repne 1) (g := fun _ => true) (by decide +kernel); exact ⟨u, h, rfl⟩
  · obtain ⟨u, h, z⟩ := iterates_next (i := .scasb) (s := (demoRep .repe 2).setReg8 .al 1) (g := fun u => u.flag .zf == false) (by decide +kernel)
    exact ⟨u, h, by simpa using z⟩
  · obtain ⟨u, h, z⟩ := iterates_next (i := .cmpsw) (s := demoRep .repne 2) (g := fun u => u.flag .zf == true) (by decide +kernel)
    exact ⟨u, h, by simpa using z⟩
  · obtain ⟨u, h, z⟩ := iterates_next (i := .stosb) (s := demoRep .repe 0xFFFF)
      (g := fun u => ({ u with pfx := (demoRep .repe 0xFFFF).pfx }.setReg16 .cx ((demoRep .repe 0xFFFF).reg16 .cx - 1)).sampleInputs.serveDma.pollDecision == .go)
      (by decide +kernel)
    exact ⟨u, h, by simpa using z⟩

/-- An NMI edge at the point after the first of two iterations of REPE CMPSB on equal bytes. -/
theorem witness_RepeatInterrupted :
    let s := { demoRep .repe 2 with inputs := [inp true false false none] }
    s.Direct ∧ s.pfx.rep = some .repe ∧ s.pfx.last = some 0xFFFE ∧ s.reg16 .cx ≠ 0 ∧ s.reg16 .cx ≠ 1 ∧
    ∃ u, exec .cmpsb { s with pfx := { s.pfx with rep := none } } = .next u ∧
      let t := { u with pfx := s.pfx }.setReg16 .cx (s.reg16 .cx - 1)
      let p := t.sampleInputs.serveDma
      let q := { p with intr := { p.intr with nmiLatch := false }, entry := some ⟨.nmi, 0xFFFE⟩ }
      t.flag .zf = true ∧ p.intr.resetLine = false ∧ p.intr.nmiLatch = true ∧ q.waiting = false ∧ Memory.wf q.mem = true ∧ q.EntryPlain 2#8 := by
  intro s
  refine ⟨rfl, rfl, rfl, by decide, by decide, ?_⟩
  have hi : iterates .cmpsb s (fun u =>
      (fun t : State => t.flag .zf == true && (fun p : State => p.intr.resetLine == false && p.intr.nmiLatch == true &&
        p.cfg.addrMap == [⟨0, 0x100000, .ram, 0, none⟩] && Memory.wf p.mem == true && p.waiting == false) t.sampleInputs.serveDma)
        ({ u with pfx := s.pfx }.setReg16 .cx (s.reg16 .cx - 1))) = true := by decide +kernel
  obtain ⟨u, h, z⟩ := iterates_next hi
  simp only [Bool.and_eq_true, beq_iff_eq] at z
  exact ⟨u, h, z.1, z.2.1.1.1.1, z.2.1.1.1.2, z.2.2, z.2.1.2, (fun e : State.EntryPlain _ 2#8 => ⟨e.1, e.2, e.3, e.4, e.5⟩) (ram_entry _ z.2.1.1.2 _)⟩

theorem witness_Jumps : Operands demo ∧ demo.plainWordAt (demo.operandSeg .ds) 0xFFFD ∧ demo.plainWordAt (demo.operandSeg .ds) (0xFFFD + 2) :=
  ⟨demo_operands, ram_plainWord _ rfl _ _, ram_plainWord _ rfl _ _⟩

theorem witness_Calls : Operands demo ∧ demo.plainWordAt (demo.seg .ss) (demo.reg16 .sp - 4) ∧ demo.plainWordAt (demo.operandSeg .ds) 0xFFFD ∧
    demo.plainWordAt (demo.operandSeg .ds) (0xFFFD + 2) := ⟨demo_operands, ram_plainWord _ rfl _ _, ram_plainWord _ rfl _ _, ram_plainWord _ rfl _ _⟩

theorem witness_Returns : Operands demo ∧ demo.admits .second ∧ Operands demoRefuse ∧ demoRefuse.admits .main ∧
    demo.plainWordAt (demo.seg .ss) (demo.reg16 .sp + 2) := ⟨demo_operands, .inr rfl, demoRefuse_operands, .inl rfl, ram_plainWord _ rfl _ _⟩

theorem witness_Prefixes : demo.admits .second ∧ demoRefuse.admits .main := ⟨.inr rfl, .inl rfl⟩

/-- Both values of every condition: all flags 0, and OF, ZF, PF, CF set with SF 0, and SF alone. -/
theorem witness_CondJumps : demo.Direct ∧ demo.admits .second ∧ demoRefuse.admits .main ∧
    (demo.flag .ovf = false ∧ demo.flag .cf = false ∧ demo.flag .zf = false ∧ demo.flag .sf = false ∧ demo.flag .pf = false) ∧
    (let s := flg demo 0x845; s.Direct ∧ s.flag .ovf = true ∧ s.flag .cf = true ∧ s.flag .zf = true ∧ s.flag .pf = true ∧ (s.flag .sf != s.flag .ovf) = true) ∧
    (let s := flg demo 0x80; s.flag .sf = true ∧ (s.flag .sf != s.flag .ovf) = true) := ⟨rfl, .inr rfl, .inl rfl, by decide, ⟨rfl, by decide⟩, by decide⟩

/-- CX = 1 (the loop ends), 2 and 0 (it goes on), with ZF of both values. -/
theorem witness_Loops : demo.Direct ∧ (demo.setReg16 .cx 1).reg16 .cx = 1 ∧ (demo.setReg16 .cx 2).reg16 .cx ≠ 1 ∧ (demo.setReg16 .cx 0).reg16 .cx ≠ 1 ∧
    (demo.setReg16 .cx 0).reg16 .cx = 0 ∧ demo.flag .zf = false ∧ (flg demo 0x40).flag .zf = true := by
  exact ⟨rfl, by decide⟩

theorem witness_SoftwareInterrupts : Operands demo ∧ demo.EntryPlain 0xFF#8 ∧ demo.EntryPlain 3#8 ∧ demo.EntryPlain 4#8 ∧ demo.flag .ovf = false ∧
    (flg demo 0x800).Ready ∧ (flg demo 0x800).EntryPlain 4#8 ∧ (flg demo 0x800).flag .ovf = true :=
  ⟨demo_operands, ram_entry _ rfl _, ram_entry _ rfl _, ram_entry _ rfl _, by decide, ⟨rfl, rfl, by decide⟩, ram_entry _ rfl _, by decide⟩

theorem witness_InterruptReturn : Operands demo ∧ demo.plainWordAt (demo.seg .ss) (demo.reg16 .sp + 2) ∧ demo.plainWordAt (demo.seg .ss) (demo.reg16 .sp + 4) :=
  ⟨demo_operands, ram_plainWord _ rfl _ _, ram_plainWord _ rfl _ _⟩

/-- TEST of both levels; an escape with two reads. -/
theorem witness_HaltWaitEscape : Operands demo ∧ demo.intr.testPin = false ∧ { demo with intr := { demo.intr with testPin := true } }.intr.testPin = true ∧
    (let s := { demo with cfg := { demo.cfg with escReads := [(8, [0, 2])] } };
      escOffsets s.cfg 8#6 = [0, 2] ∧ ∀ d ∈ escOffsets s.cfg 8#6, s.plainAt (s.operandSeg (defaultSeg (.nodisp .bx))) (s.eaOffset (.nodisp .bx) + d)) :=
  ⟨demo_operands, rfl, rfl, rfl, fun _ _ => ram_plain _ rfl _ _⟩

theorem witness_UndocumentedRefused : demoRefuse.cfg.undocMode = .refuse ∧ State.reset.cfg.undocMode = .refuse ∧ (1#3 : BitVec 3) ≠ 0#3 ∧ (7#3 : BitVec 3) ≠ 0#3 := by
  decide

theorem witness_UndocumentedSilicon : Operands demo ∧ demo.cfg.undocMode = .silicon ∧ (demo.setReg8 .cl 1).reg8 .cl ≠ 0#8 ∧ (demo.setReg8 .cl 0).reg8 .cl = 0#8 ∧
    (demo.setReg8 .cl 0).Ready := ⟨demo_operands, rfl, by decide, by decide, ⟨rfl, rfl, by decide⟩⟩

theorem witness_RefusedInBothModes : (demoRep .repe 1).pfx.rep ≠ none ∧ (demoRep .repne 0).pfx.rep ≠ none ∧ (demoRep .repe 1).cfg.undocMode = .silicon ∧
    demoRefuse.cfg.undocMode = .refuse := by decide

/-- The five cases: in the shadow with everything pending; NMI before all; INTR, the host's and the stubs', before the trap; the trap; nothing, as with INTR
while IF = 0, or one instruction after STI. Then the three entries, INTR's with the host's byte, with the stubs', and without either. -/
theorem witness_BoundaryEvents :
    let wants (s : State) : Bool := (s.intr.intrLine || s.devtm.intr) && s.flag .intf && !s.intr.stiDelay
    let trap (s : State) : Bool := s.intr.trapPending && (s.entered != .internal || s.cfg.stepAfterInt)
    let e (ev : Event) : State := { demo with entry := some ⟨ev, 0xFFFF⟩ }
    (let s := { flg demo 0x200 with intr := { demo.intr with shadow := true, nmiLatch := true, intrLine := true, trapPending := true } };
      s.intr.resetLine = false ∧ s.intr.shadow = true) ∧
    (let s := { flg demo 0x200 with intr := { demo.intr with nmiLatch := true, intrLine := true, trapPending := true } };
      s.intr.resetLine = false ∧ s.intr.shadow = false ∧ s.intr.nmiLatch = true) ∧
    (let s := { flg demo 0x200 with intr := { demo.intr with intrLine := true, trapPending := true } }; s.intr.nmiLatch = false ∧ wants s = true) ∧
    (let s := { flg demo 0x200 with devtm := { demo.devtm with intr := true } }; wants s = true) ∧
    (let s := { demo with intr := { demo.intr with intrLine := true, trapPending := true } }; wants s = false ∧ trap s = true) ∧
    (let s := { flg demo 0x200 with entered := .internal, intr := { demo.intr with intrLine := true, stiDelay := true, trapPending := true } };
      wants s = false ∧ trap s = false) ∧
    (Memory.wf demo.mem = true ∧ (e .nmi).entry = some ⟨.nmi, 0xFFFF⟩ ∧ (e .nmi).EntryPlain 2#8 ∧ (e .trap).EntryPlain 1#8 ∧ ∀ v, (e .intr).EntryPlain v) ∧
    (let s := { e .intr with intr := { demo.intr with intaVector := some 0xFF }, devtm := { demo.devtm with vector := some 8 } };
      s.intr.intaVector.or s.devtm.vector = some 0xFF) ∧
    (let s := { e .intr with devtm := { demo.devtm with vector := some 8 } }; s.intr.intaVector.or s.devtm.vector = some 8) ∧
    (e .intr).intr.intaVector.or (e .intr).devtm.vector = none :=
  ⟨⟨rfl, rfl⟩, ⟨rfl, rfl, rfl⟩, ⟨rfl, by decide⟩, by decide, ⟨by decide, by decide⟩, ⟨by decide, by decide⟩,
    ⟨rfl, rfl, ram_entry _ rfl _, ram_entry _ rfl _, ram_entry _ rfl⟩, rfl, rfl, rfl⟩

theorem witness_InputSampling : { demo with inputs := [inp true false true none] }.inputs = inp true false true none :: [] := rfl

/-- Halted or waiting: a reset; nothing to do; NMI; INTR; and, waiting, TEST. -/
theorem witness_HaltAndWait :
    let halted (h : HostInput) : State := { flg demo 0x200 with intr := { demo.intr with halted := true }, inputs := [h] }
    let waits (h : HostInput) : State := { flg demo 0x200 with waiting := true, pfx := ⟨none, none, false, some 0xFFFE, none⟩, inputs := [h] }
    let p (s : State) : State := { s with port := Port.direct }.sampleInputs.serveDma
    let wants (s : State) : Bool := ((p s).intr.intrLine || (p s).devtm.intr) && (p s).flag .intf && !(p s).intr.stiDelay
    let reset : HostInput := { inp false false false none with reset := true }
    let enters (s : State) (n : Bool) : Prop := (p s).intr.resetLine = false ∧ (p s).intr.shadow = false ∧ (p s).intr.nmiLatch = n ∧ Memory.wf (p s).mem = true ∧
      (n = true → (p s).EntryPlain 2#8) ∧ (n = false → wants s = true ∧ ∀ v, (p s).EntryPlain v)
    ((halted reset).entry = none ∧ (p (halted reset)).intr.resetLine = true ∧ (waits reset).entry = none ∧ (p (waits reset)).intr.resetLine = true) ∧
    ((p (halted (inp false false true none))).intr.nmiLatch = false ∧ wants (halted (inp false false true none)) = false) ∧
    enters (halted (inp true false false none)) true ∧ enters (halted (inp false true false (some 8))) false ∧
    (p (waits (inp true true true none))).intr.testPin = true ∧
    ((p (waits (inp false false false none))).intr.testPin = false ∧ (p (waits (inp false false false none))).intr.nmiLatch = false ∧
      wants (waits (inp false false false none)) = false) ∧
    ((p (waits (inp true false false none))).intr.testPin = false ∧ enters (waits (inp true false false none)) true) ∧
    ((p (waits (inp false true false none))).intr.testPin = false ∧ enters (waits (inp false true false none)) false) :=
  ⟨⟨rfl, rfl, rfl, rfl⟩, ⟨rfl, by decide⟩, ⟨rfl, rfl, rfl, rfl, fun _ => ram_entry _ rfl _, nofun⟩, ⟨rfl, rfl, rfl, rfl, nofun, fun _ => ⟨by decide, ram_entry _ rfl⟩⟩,
    rfl, ⟨rfl, rfl, by decide⟩, ⟨rfl, rfl, rfl, rfl, rfl, fun _ => ram_entry _ rfl _, nofun⟩,
    ⟨rfl, rfl, rfl, rfl, rfl, nofun, fun _ => ⟨by decide, ram_entry _ rfl⟩⟩⟩

/-- A region of each kind, at the address FFFF:0010, which is 00000h. -/
theorem witness_MemoryAccess :
    ((demoMap .ram).Ready ∧ (demoMap .ram).cfg.memKind (phys 0xFFFF 0x10) = .ram) ∧ ((demoMap .rom).Ready ∧ (demoMap .rom).cfg.memKind (phys 0xFFFF 0x10) = .rom) ∧
    ((demoMap (.mmio 3)).Ready ∧ (demoMap (.mmio 3)).cfg.memKind (phys 0xFFFF 0x10) = .mmio 3) ∧
    ((demoMap .none).Ready ∧ (demoMap .none).cfg.memKind (phys 0xFFFF 0x10) = .none ∧ (demoMap .none).cfg.openBus = .const 0xFF) :=
  ⟨⟨⟨rfl, rfl, by decide⟩, by decide⟩, ⟨⟨rfl, rfl, by decide⟩, by decide⟩, ⟨⟨rfl, rfl, by decide⟩, by decide⟩, ⟨⟨rfl, rfl, by decide⟩, by decide, rfl⟩⟩

/-- A bus cycle of each direction, with one and no wait state left. -/
theorem witness_BusPhases :
    let c (d : Dir) (w : Nat) : Cycle := ⟨0xFFFFF, 0xA5, d, .memory, .operand, w, false⟩
    let b (x : Bus) : State := { demo with bus := x }
    (b (.t1 (c .read 1))).bus = .t1 (c .read 1) ∧ (b (.t2 (c .write 0))).bus = .t2 (c .write 0) ∧ (c .write 0).dir = .write ∧
    ((b (.t2 (c .read 0))).bus = .t2 (c .read 0) ∧ (c .read 0).dir = .read ∧ (c .read 0).space = .memory ∧ plainKind (demo.cfg.memKind (c .read 0).addr) = true) ∧
    ((b (.t3 (c .read 1))).bus = .t3 (c .read 1) ∧ 0 < (c .read 1).waitsLeft) ∧
    ((b (.tw (c .write 0))).bus = .tw (c .write 0) ∧ (c .write 0).waitsLeft = 0 ∧ demo.cfg.memKind (c .write 0).addr = .ram) ∧
    ((b (.t3 (c .read 0))).bus = .t3 (c .read 0) ∧ (c .read 0).dir = .read) ∧ demo.bus = .idle ∧ (b (.t4 (c .read 0))).bus = .t4 (c .read 0) :=
  ⟨rfl, rfl, rfl, ⟨rfl, rfl, rfl, by decide⟩, ⟨rfl, by decide⟩, ⟨rfl, rfl, by decide⟩, ⟨rfl, rfl⟩, rfl, rfl⟩

/-- A queue of three of four bytes, and a full one. -/
def queueOf (n : Nat) : Queue := ⟨[1, 2, 3, 4], 3, (3 + n) % 4, n⟩

/-- Each winner: refresh, the host's or the stubs', unless LOCK holds it off; the second DMA channel, by either side, where the first is quiet; a fetch with room
for one byte; the operand request with the queue full; nobody. -/
theorem witness_Arbitration :
    let held (s : State) : Bool := s.lockOut && s.cfg.lockBlocksDma
    let refresh (s : State) : Bool := (s.hostLines.refresh.isSome || s.devtm.rfq.isSome) && !held s
    let wants (s : State) (ch : Nat) : Bool := (s.hostLines.dma.getD ch none).isSome || (s.devtm.dreq.getD ch none).isSome
    let room (s : State) : Prop := s.biu.queue.len + (if s.biu.fetchInflight then 1 else 0) + s.cfg.fetchFree ≤ s.cfg.qCap
    demo.cfg.arbOrder = [.refresh, .dma, .fetch, .operand] ∧ refresh { demo with devtm := { demo.devtm with rfq := some 0 } } = true ∧
    refresh { demo with hostLines := ⟨[], some 0⟩ } = true ∧
    (let s := { demo with devtm := { demo.devtm with dreq := [none, some ⟨.read, 0⟩] } };
      refresh s = false ∧ held s = false ∧ wants s 1 = true ∧ ∀ j < 1, wants s j = false) ∧
    (let s := { demo with hostLines := ⟨[none, some ⟨.read, 0⟩], none⟩ };
      refresh s = false ∧ held s = false ∧ wants s 1 = true ∧ ∀ j < 1, wants s j = false) ∧
    (let s := { demo with biu := ⟨queueOf 3, 0, false, false, false⟩ };
      (∀ j, wants s j = false) ∧ room s ∧ s.intr.halted = false ∧ s.flushDue = false ∧ s.eng.inta ≠ 1) ∧
    (let s := { demo with biu := ⟨queueOf 4, 0, false, false, false⟩, eng := { demo.eng with request := some ⟨.memory, .read, 0, 0⟩ } };
      ¬room s ∧ s.eng.request.isSome = true ∧ s.eng.granted = false) ∧
    (let s := { demo with biu := ⟨queueOf 4, 0, false, false, false⟩ }; ¬room s ∧ s.eng.request.isSome = false) :=
  ⟨rfl, rfl, rfl, ⟨rfl, rfl, rfl, by decide⟩, ⟨rfl, rfl, rfl, by decide⟩, ⟨fun _ => rfl, by decide, rfl, by decide, by decide⟩, ⟨by decide, rfl, rfl⟩, ⟨by decide, rfl⟩⟩

/-- Lengths 3, 4 (full), 1 and 0, with the head at the last place. -/
theorem witness_QueueFifo : ∀ n ∈ [3, 4, 1, 0], (queueOf n).buf.length = 4 ∧ (queueOf n).head < (queueOf n).buf.length ∧ (queueOf n).len ≤ (queueOf n).buf.length ∧
    (queueOf n).tail = ((queueOf n).head + (queueOf n).len) % (queueOf n).buf.length := by decide

/-- The last byte of a queue of four, and one dropped after a flush. -/
theorem witness_FetchCompletion :
    let c : Cycle := ⟨0x1FFFE, 0xA5, .read, .memory, .fetch, 0, false⟩
    let s : State := { demo with bus := .t4 c, biu := ⟨queueOf 3, 2, true, false, false⟩ }
    let d : State := { demo with bus := .t4 c, biu := ⟨queueOf 0, 0xFFFF, true, true, false⟩ }
    (s.Inv ∧ c.req = .fetch ∧ s.bus = .t4 c ∧ s.biu.fetchDiscard = false) ∧ (d.Inv ∧ d.bus = .t4 c ∧ d.biu.fetchDiscard = true) :=
  ⟨⟨⟨rfl, by decide, nofun, ⟨by decide, by decide, by decide, by decide, by decide⟩, rfl, nofun, by decide, by decide, rfl⟩, rfl, rfl, rfl⟩,
    ⟨rfl, by decide, nofun, ⟨by decide, by decide, by decide, by decide, by decide⟩, rfl, fun _ => rfl, by decide, by decide, rfl⟩, rfl, rfl⟩

theorem witness_TickCounts : { demo with driver := { demo.driver with status := .refused .feGroup } }.driver.status.stopped = true ∧
    demo.driver.status.stopped = false ∧ demo.sampleInputs.intr.resetLine = false ∧
    { demo with inputs := [{ inp false false false none with reset := true }] }.sampleInputs.intr.resetLine = true := ⟨rfl, rfl, rfl, rfl⟩

/-- No session and no validator mode; an open session on the null transport; on a serial link two good exchanges, and in either exchange a failure of every
attempt and an abort; an equal snapshot and one that differs in a control signal. -/
theorem witness_Comparison :
    let p := Params.atReset.validator
    let n (t : Transport) : Session := ⟨t, 0, none, [], .degraded, .opened, 0⟩
    let link (r : List Reply) : Transport := .serial ⟨[], r, [], [], []⟩
    let hw : Snapshot := { demo.snapshot with ctrl := { demo.snapshot.ctrl with extra := [("READY", 1)] } }
    let step : Reply := .response 0 none
    let first (r : List Reply) : Exchange × Transport := exchangeRetry p .step p.maxAttempts (link (step :: r))
    let second (r : List Reply) : Exchange := (exchangeRetry p .readBusState p.maxAttempts (first r).2).1
    demo.session = none ∧ ValidatorMode.disabled ≠ .enabled ∧ demo.cfg.validatorMode = .enabled ∧
    { demo with session := some (n .null) }.session = some (n .null) ∧ ((n .null).status = .opened ∨ (n .null).status = .degraded) ∧
    (exchangeRetry p .step p.maxAttempts (link [.timeout])).1 = .failed ∧ (exchangeRetry p .step p.maxAttempts (link [.abort])).1 = .aborted ∧
    ((first [.response 0 (some hw)]).1 = .good none ∧ second [.response 0 (some hw)] = .good (some hw)) ∧
    ((first [.timeout]).1 = .good none ∧ second [.timeout] = .failed) ∧ ((first [.abort]).1 = .good none ∧ second [.abort] = .aborted) ∧
    compareSnapshots ["READY"] demo.snapshot demo.snapshot = [] ∧ compareSnapshots ["READY"] demo.snapshot hw ≠ [] :=
  ⟨rfl, by decide, rfl, rfl, .inr rfl, rfl, rfl, ⟨rfl, rfl⟩, ⟨rfl, rfl⟩, ⟨rfl, rfl⟩, by decide, by decide⟩

/-- Two bad replies before a good one: fewer than three attempts, and all of two. -/
theorem witness_RetryBound :
    let p := Params.atReset.validator
    let bad : List Reply := [.timeout, .response 1 none]
    (∀ r ∈ bad, judgeReply p .step r = .failed) ∧ judgeReply p .step (.response 0 none) = .good none ∧ bad.length < 3 ∧ bad.length = 2 ∧ 0 < 2 := by decide

end Sys2Proof.Tests
end

/-!
O5. The decoder reads its bytes one at a time, at most six of them, so what it makes of an instruction's bytes does not depend on the bytes behind them. The
window a step fetches starts with the bytes that stand at CS:IP, so the step decodes the instruction they encode.
-/

namespace Sys2Proof

/-- `f` takes its bytes one at a time, at most `n` of them, and then answers: the shape of every reader of the decoder. -/
inductive Reader : Nat → (List Byte → DecodeResult) → Prop where
  | ok {n : Nat} (i : Instr) : Reader n fun bs => .ok i bs
  | byte {n : Nat} {k : Byte → List Byte → DecodeResult} (h : ∀ b, Reader n (k b)) : Reader (n + 1) fun bs => takeByte bs k

namespace Reader

/-- A reader that answers answers the same whatever follows the bytes it took, and leaves exactly what follows. -/
theorem took {n : Nat} {f : List Byte → DecodeResult} (r : Reader n f) : ∀ {bs i rest}, f bs = .ok i rest →
    ∃ used, bs = used ++ rest ∧ used.length ≤ n ∧ ∀ more, f (used ++ more) = .ok i more := by
  induction r with
  | ok j =>
    intro bs i rest h
    obtain ⟨rfl, rfl⟩ : j = i ∧ bs = rest := by simpa using h
    exact ⟨[], rfl, Nat.zero_le _, fun _ => rfl⟩
  | byte _ ih =>
    intro bs i rest h
    obtain ⟨b, tail, rfl, hb⟩ := takeByte_inv h
    obtain ⟨used, rfl, len, again⟩ := ih b hb
    exact ⟨b :: used, rfl, Nat.succ_le_succ len, again⟩

/-- A reader of at most `n` bytes is one of at most `n + 1`. -/
theorem succ {n : Nat} {f : List Byte → DecodeResult} (r : Reader n f) : Reader (n + 1) f := by
  induction r with
  | ok i => exact .ok i
  | byte _ ih => exact .byte ih

section
variable {n : Nat}

theorem word {k : Word → List Byte → DecodeResult} (h : ∀ w, Reader n (k w)) : Reader (n + 2) fun bs => takeWord bs k :=
  .byte fun _ => .byte fun _ => h _

/-- ModR/M and its displacement, by the mod field: a direct offset or none, a byte, a word, a register (R148). -/
theorem e {k : BitVec 3 → Rm (BitVec 3) → List Byte → DecodeResult} (h : ∀ g e, Reader n (k g e)) : Reader (n + 3) fun bs => takeE bs k := by
  refine .byte fun b => ?_
  split
  · split
    · exact .word fun _ => h _ _
    · exact (h _ _).succ.succ
  · exact .byte fun _ => (h _ _).succ
  · exact .word fun _ => h _ _
  · exact (h _ _).succ.succ

theorem e8 {k : BitVec 3 → Rm8 → List Byte → DecodeResult} (h : ∀ g e, Reader n (k g e)) : Reader (n + 3) fun bs => takeE8 bs k :=
  .e fun g _ => h g _

theorem e16 {k : BitVec 3 → Rm16 → List Byte → DecodeResult} (h : ∀ g e, Reader n (k g e)) : Reader (n + 3) fun bs => takeE16 bs k :=
  .e fun g _ => h g _

end

/-! The operand shapes: each takes at most the five bytes that may follow an opcode. -/

@[simp] theorem plain (i : Instr) : Reader 5 (plain i) := .ok i
@[simp] theorem withByte (mk : Byte → Instr) : Reader 5 (withByte mk) := .byte fun _ => .ok _
@[simp] theorem withWord (mk : Word → Instr) : Reader 5 (withWord mk) := .word fun _ => .ok _
@[simp] theorem withFar (mk : Word → Word → Instr) : Reader 5 (withFar mk) := .word fun _ => .word fun _ => .ok _
@[simp] theorem withEG8 (mk : Rm8 → Reg8 → Instr) : Reader 5 (withEG8 mk) := .e8 fun _ _ => .ok _
@[simp] theorem withEG16 (mk : Rm16 → Reg16 → Instr) : Reader 5 (withEG16 mk) := .e16 fun _ _ => .ok _
@[simp] theorem withGE8 (mk : Reg8 → Rm8 → Instr) : Reader 5 (withGE8 mk) := .e8 fun _ _ => .ok _
@[simp] theorem withGE16 (mk : Reg16 → Rm16 → Instr) : Reader 5 (withGE16 mk) := .e16 fun _ _ => .ok _
@[simp] theorem withE8 (mk : BitVec 3 → Rm8 → Instr) : Reader 5 (withE8 mk) := .e8 fun _ _ => .ok _
@[simp] theorem withE16 (mk : BitVec 3 → Rm16 → Instr) : Reader 5 (withE16 mk) := .e16 fun _ _ => .ok _
@[simp] theorem withE8I8 (mk : BitVec 3 → Rm8 → Byte → Instr) : Reader 5 (withE8I8 mk) := .e8 fun _ _ => .byte fun _ => .ok _
@[simp] theorem withE16I16 (mk : BitVec 3 → Rm16 → Word → Instr) : Reader 5 (withE16I16 mk) := .e16 fun _ _ => .word fun _ => .ok _
@[simp] theorem withE16I8 (mk : BitVec 3 → Rm16 → Byte → Instr) : Reader 5 (withE16I8 mk) := .e16 fun _ _ => .byte fun _ => .ok _

@[simp] theorem decodeF6 : Reader 5 decodeF6 := by
  refine .e8 fun g _ => ?_
  split
  · exact .byte fun _ => .ok _
  · exact .byte fun _ => .ok _
  · exact .ok _

@[simp] theorem decodeF7 : Reader 5 decodeF7 := by
  refine .e16 fun g _ => ?_
  split
  · exact .word fun _ => .ok _
  · exact .word fun _ => .ok _
  · exact .ok _

/-! A row of the opcode map has one shape for each low nibble. -/

theorem decodeRow0 (n : Nat) : Reader 5 (decodeRow0 n) := by unfold Sys2Proof.decodeRow0; split <;> simp
theorem decodeRow1 (n : Nat) : Reader 5 (decodeRow1 n) := by unfold Sys2Proof.decodeRow1; split <;> simp
theorem decodeRow2 (n : Nat) : Reader 5 (decodeRow2 n) := by unfold Sys2Proof.decodeRow2; split <;> simp
theorem decodeRow3 (n : Nat) : Reader 5 (decodeRow3 n) := by unfold Sys2Proof.decodeRow3; split <;> simp
theorem decodeRow4 (n : Nat) : Reader 5 (decodeRow4 n) := by unfold Sys2Proof.decodeRow4; split <;> simp
theorem decodeRow5 (n : Nat) : Reader 5 (decodeRow5 n) := by unfold Sys2Proof.decodeRow5; split <;> simp
theorem decodeRow6 (n : Nat) : Reader 5 (decodeRow6 n) := by unfold Sys2Proof.decodeRow6; split <;> simp
theorem decodeRow7 (n : Nat) : Reader 5 (decodeRow7 n) := by unfold Sys2Proof.decodeRow7; split <;> simp
theorem decodeRow8 (n : Nat) : Reader 5 (decodeRow8 n) := by unfold Sys2Proof.decodeRow8; split <;> simp
theorem decodeRow9 (n : Nat) : Reader 5 (decodeRow9 n) := by unfold Sys2Proof.decodeRow9; split <;> simp
theorem decodeRowA (n : Nat) : Reader 5 (decodeRowA n) := by unfold Sys2Proof.decodeRowA; split <;> simp
theorem decodeRowB (n : Nat) : Reader 5 (decodeRowB n) := by unfold Sys2Proof.decodeRowB; split <;> simp
theorem decodeRowC (n : Nat) : Reader 5 (decodeRowC n) := by unfold Sys2Proof.decodeRowC; split <;> simp
theorem decodeRowD (n : Nat) : Reader 5 (decodeRowD n) := by unfold Sys2Proof.decodeRowD; split <;> simp
theorem decodeRowE (n : Nat) : Reader 5 (decodeRowE n) := by unfold Sys2Proof.decodeRowE; split <;> simp
theorem decodeRowF (n : Nat) : Reader 5 (decodeRowF n) := by unfold Sys2Proof.decodeRowF; split <;> simp

theorem decodeOp (op : Byte) : Reader 5 (decodeOp op) := by
  unfold Sys2Proof.decodeOp
  split
  · exact decodeRow0 _
  · exact decodeRow1 _
  · exact decodeRow2 _
  · exact decodeRow3 _
  · exact decodeRow4 _
  · exact decodeRow5 _
  · exact decodeRow6 _
  · exact decodeRow7 _
  · exact decodeRow8 _
  · exact decodeRow9 _
  · exact decodeRowA _
  · exact decodeRowB _
  · exact decodeRowC _
  · exact decodeRowD _
  · exact decodeRowE _
  · exact decodeRowF _

end Reader

/-- An opcode and at most five bytes after it (R153). -/
theorem decode_reader : Reader maxInstrBytes decode := .byte Reader.decodeOp

/-- The bytes of exactly one instruction are at most six, and decode to it whatever follows them. -/
theorem decode_whole {bs : List Byte} {i : Instr} (h : decode bs = .ok i []) :
    bs.length ≤ maxInstrBytes ∧ ∀ more, decode (bs ++ more) = .ok i more := by
  obtain ⟨used, rfl, len, again⟩ := decode_reader.took h
  simpa using ⟨len, again⟩

end Sys2Proof

namespace Sys2Proof.Machine

/-- Where nothing races with the fetch, a byte of code in RAM or ROM is fetched as memory holds it (R82). -/
theorem CodeAt.fetchByte {s : State} {bs : List Byte} (c : CodeAt s bs) {k : Nat} (hk : k < bs.length) : s.fetchByte k = bs[k] := by
  have addr : s.fetchAddr k = phys (s.seg .cs) (s.ip + BitVec.ofNat 16 k) := by unfold State.fetchAddr State.fetchSeg; rw [c.race]; rfl
  have held : s.codeByte k = s.byteAt (s.seg .cs) (s.ip + BitVec.ofNat 16 k) := by
    have plain := c.plain k hk
    unfold State.plainAt at plain
    unfold State.codeByte State.readValue
    rw [addr]
    cases kind : s.cfg.memKind (phys (s.seg .cs) (s.ip + BitVec.ofNat 16 k)) with
    | ram => rfl
    | rom => rfl
    | mmio d => simp [kind, plainKind] at plain
    | none => simp [kind, plainKind] at plain
  have current : s.staleAt k = [] := by simp [State.staleAt, c.fresh]
  unfold State.fetchByte
  rw [current, ← c.bytes k hk, ← held]

/-- The fetch window starts with the bytes at CS:IP. -/
theorem CodeAt.fetchWindow {s : State} {bs : List Byte} (c : CodeAt s bs) (len : bs.length ≤ maxInstrBytes) : ∃ more, s.fetchWindow = bs ++ more := by
  have start : bs <+: s.fetchWindow := by
    rw [List.prefix_iff_getElem]
    refine ⟨by simpa [State.fetchWindow] using len, fun k hk => ?_⟩
    simp [State.fetchWindow, c.fetchByte hk]
  obtain ⟨more, h⟩ := start
  exact ⟨more, h.symm⟩

/-- What a step decodes is the instruction whose bytes stand at CS:IP, and it takes just those bytes (R15, R162). -/
theorem CodeAt.decode_fetchWindow {s : State} {bs : List Byte} {i : Instr} (c : CodeAt s bs) (h : decode bs = .ok i []) :
    ∃ rest, decode s.fetchWindow = .ok i rest ∧ maxInstrBytes - rest.length = bs.length := by
  obtain ⟨len, again⟩ := decode_whole h
  obtain ⟨more, window⟩ := c.fetchWindow len
  have six : s.fetchWindow.length = maxInstrBytes := by simp [State.fetchWindow]
  rw [window, List.length_append] at six
  exact ⟨more, window ▸ again more, by omega⟩

/-- With no event to enter, no WAIT and no halt, a step runs the instruction at CS:IP with its prefixes. -/
theorem step_eq_runStream {s : State} (e : s.entry = none) (w : s.waiting = false) (h : s.intr.halted = false) : step s = s.runStream maxPrefixes := by
  simp [step, e, w, h]

section
variable {s : State} {bs : List Byte} {i : Instr} (c : CodeAt s bs) (h : decode bs = .ok i []) (n : Nat)
include c h

/-- An instruction that is none of the prefixes is what the step runs (R15). -/
theorem runStream_instr (np : isPrefixInstr i = false) : s.runStream (n + 1) = runInstr i bs.length s := by
  obtain ⟨rest, window, len⟩ := c.decode_fetchWindow h
  simp [State.runStream, window, len, np]

/-- One of the prefixes, where it is taken: the same step goes on with the byte after it (R142). -/
theorem runStream_prefix (p : isPrefixInstr i = true) {t : State} (x : exec i (s.beginInstr bs.length) = .next t) :
    s.runStream (n + 1) = t.runStream n := by
  obtain ⟨rest, window, len⟩ := c.decode_fetchWindow h
  simp [State.runStream, window, len, p, x]

/-- One of the prefixes, where it is refused: the step ends with the refusal. -/
theorem runStream_prefix_refused (p : isPrefixInstr i = true) {r : Refusal} (x : exec i (s.beginInstr bs.length) = .refused r) :
    s.runStream (n + 1) = .refused r := by
  obtain ⟨rest, window, len⟩ := c.decode_fetchWindow h
  simp [State.runStream, window, len, p, x]

end

/-- Settles O5: the bytes at CS:IP are what the step decodes, so the decoder's answer on them alone is the step's instruction. -/
theorem stepRunsDecoded : Obligations.StepRunsDecoded := by
  unfold Obligations.StepRunsDecoded
  refine ⟨fun s e w h => step_eq_runStream e w h, fun s i bs n h c => ⟨fun np => runStream_instr c h n np, fun p => ⟨?_, ?_⟩⟩⟩
  · exact fun t x => runStream_prefix c h n p x
  · exact fun r x => runStream_prefix_refused c h n p x

end Sys2Proof.Machine

/-!
O10. Whatever a step of the instruction level runs, an event's entry, a recognition point, or an instruction with its prefixes, is calm (Laws/Calm.lean) or a
reset, and both keep the engine between operations with the invariant.
-/

namespace Sys2Proof.Machine

/-- Taking an event at a recognition point and entering it at once is calm. -/
theorem Calm.enterAtOnce (s : State) (ev : Event) (sip : Word) : Calm s ((s.acceptEvent ev).enterEvent ev sip).endBoundary :=
  ((Calm.acceptEvent s ev).trans (Calm.enterEvent _ ev sip)).trans (Calm.endBoundary _)

namespace State

section
variable {s t : State} (h : s.Inv) (e : s.eng.start = none)
include h e

/-- The entry of the event the last boundary took. -/
theorem Inv.runEntry (p : PendingEntry) : (s.runEntry p).Between := by
  have ready : { s with entry := none, port := Port.direct }.Between := (h.between e).same rfl rfl rfl rfl rfl rfl rfl rfl rfl
  exact ready.calm (Calm.enterEvent _ p.event p.sip)

/-- A recognition point of a halted core. -/
theorem Inv.haltStep : s.haltStep.Between := by
  have sampled := (h.between e).sampled
  unfold State.haltStep
  simp only
  split
  · exact sampled.applyReset
  · split
    · exact sampled.calm (Calm.enterAtOnce _ _ _)
    · exact sampled

/-- A recognition point of WAIT. -/
theorem Inv.waitStep : s.waitStep.Between := by
  have sampled := (h.between e).sampled
  unfold State.waitStep
  simp only
  split
  · exact sampled.applyReset
  · split
    · exact State.Between.recognise (sampled.same rfl rfl rfl rfl rfl rfl rfl rfl rfl)
    · split
      · exact (sampled.calm (Calm.enterAtOnce _ _ _)).same rfl rfl rfl rfl rfl rfl rfl rfl rfl
      · exact sampled

/-- What the meaning of an instruction leaves, once its bytes are taken. -/
theorem Inv.exec {i : Instr} {n : Nat} (x : exec i (s.beginInstr n) = .next t) : t.Between :=
  (h.begin e n).calmOrReset ((exec_calm i _).1 t x)

/-- One instruction, with what ends it. -/
theorem Inv.runInstr {i : Instr} {n : Nat} (x : runInstr i n s = .next t) : t.Between := by
  unfold Machine.runInstr at x
  cases r : Machine.exec i (s.beginInstr n) with
  | next u =>
    rw [r] at x
    cases x
    exact (h.exec e r).finish
  | fault f => rw [r] at x; cases x
  | refused f => rw [r] at x; cases x

end

/-- An instruction with its prefixes, by induction on how many of them the step may still take. -/
theorem Inv.runStream {n : Nat} {s t : State} (h : s.Inv) (e : s.eng.start = none) (x : s.runStream n = .next t) : t.Inv ∧ t.eng.start = none := by
  induction n generalizing s with
  | zero =>
    cases x
    exact ⟨h, e⟩
  | succ n ih =>
    unfold State.runStream at x
    split at x
    · cases x
    · split at x
      · split at x
        · rename_i u r
          obtain ⟨hu, eu⟩ := (h.exec e r).out
          exact ih hu eu x
        · cases x
        · cases x
      · exact (h.runInstr e x).out

end State

/-- Settles O10: by what the step runs. -/
theorem stepKeepsInv : Obligations.StepKeepsInv := by
  unfold Obligations.StepKeepsInv
  intro s t h e x
  unfold step at x
  split at x
  · cases x
    exact (h.runEntry e _).out
  · split at x
    · cases x
      exact (h.waitStep e).out
    · split at x
      · cases x
        exact (h.haltStep e).out
      · exact h.runStream e x

end Sys2Proof.Machine

/-!
O11. A tick is its inputs, the bus, the engine, the status and the comparison, each of which keeps the invariant (Laws/Engine.lean), or a reset.
-/

namespace Sys2Proof.Machine

/-- Steps 1 to 4 of R571. -/
theorem State.Inv.tickCore {s : State} (h : s.Inv) : s.tickCore.Inv := by
  have sampled := (Keeps.sampleInputs s).inv h
  unfold State.tickCore
  simp only
  split
  · exact sampled.applyReset
  · have moved := (Keeps.advanceCycle _).inv sampled
    split
    · exact moved
    · exact (Keeps.stepCycle _).inv moved

/-- Of the driver the invariant speaks of the status only. -/
theorem State.Inv.withDriver {s : State} (h : s.Inv) {d : Driver} (st : d.status = s.driver.status) : { s with driver := d }.Inv :=
  State.InvAt.inv (h.at.same rfl rfl rfl rfl rfl (st ▸ h.noFault)) rfl h.start h.direct

/-- Settles O11: by the parts of a tick. -/
theorem tickKeepsInv : Obligations.TickKeepsInv := by
  unfold Obligations.TickKeepsInv
  intro s h
  unfold State.tick
  split
  · exact h.withDriver rfl
  · have updated := (Keeps.updateStatus _).inv h.tickCore
    have validated := (Keeps.validate _).inv (updated.withDriver (d := { s.tickCore.updateStatus.driver with
      cycles := s.tickCore.updateStatus.driver.cycles + 1 }) rfl)
    simp only
    split
    · exact (Keeps.noteCheckpoint _).inv validated
    · exact validated

end Sys2Proof.Machine

/-!
O6. Code in RAM or ROM is fetched without a device access, so taking an instruction's bytes is IP and the fetch pointer moving; what ends an instruction is a
case of `State.finish` for each state of WAIT, the event to enter and what the boundary must know.
-/

namespace Sys2Proof.Machine

section
variable {s : State} {bs : List Byte} (c : CodeAt s bs)
include c

/-- Where no change of CS races with the fetch, code is fetched from CS:IP on. -/
theorem CodeAt.fetchAddr (k : Nat) : s.fetchAddr k = phys (s.seg .cs) (s.ip + BitVec.ofNat 16 k) := by
  unfold State.fetchAddr State.fetchSeg
  rw [c.race]
  rfl

/-- Fetching a byte of code in RAM or ROM is no device access (R84). -/
theorem CodeAt.isEvent {k : Nat} (hk : k < bs.length) : s.cfg.isEvent .memory (s.fetchAddr k) = false := by
  have plain := c.plain k hk
  unfold State.plainAt at plain
  rw [c.fetchAddr]
  unfold Params.isEvent
  cases kind : s.cfg.memKind (phys (s.seg .cs) (s.ip + BitVec.ofNat 16 k)) with
  | ram => rfl
  | rom => rfl
  | mmio d => simp [kind, plainKind] at plain
  | none => simp [kind, plainKind] at plain

/-- So no access is recorded. -/
theorem CodeAt.recordFetch : s.recordFetch bs.length = s := by
  have key : ∀ n ≤ bs.length, s.recordFetch n = s := by
    intro n
    induction n with
    | zero => exact fun _ => rfl
    | succ n ih =>
      intro len
      have before : s.recordFetch n = s := ih (by omega)
      unfold State.recordFetch at before ⊢
      rw [List.range_succ, List.foldl_append, before]
      simp [State.record, c.isEvent (show n < bs.length by omega)]
  exact key _ le_rfl

/-- The start of an instruction moves nothing its fetch looks at. -/
theorem CodeAt.startInstr : CodeAt { s.startInstr with port := Port.direct } bs := by
  obtain ⟨p, i, e, h⟩ := s.startInstr_eq
  rw [h]
  exact ⟨c.plain, c.bytes, c.fresh, c.race⟩

/-- Taking the bytes of an instruction in RAM or ROM (R25, R112). -/
theorem CodeAt.beginInstr : s.beginInstr bs.length = { s.startInstr with
    port := Port.direct, ip := s.startInstr.ip + BitVec.ofNat 16 bs.length,
    biu := { s.startInstr.biu with pfp := s.startInstr.biu.pfp + BitVec.ofNat 16 bs.length },
    fetchRace := FetchRace.take bs.length s.startInstr.fetchRace, busDraws := s.startInstr.busDraws + maxInstrBytes } := by
  unfold State.beginInstr State.commitFetch
  rw [c.startInstr.recordFetch]

end

/-- The first byte of an instruction, which may be one of its prefixes: its offset and the trap are recorded (R44, R442). -/
theorem State.startInstr_first {s : State} (h : s.pfx.start = none) : s.startInstr =
    { s with pfx := { s.pfx with start := some s.ip }, intr := { s.intr with trapPending := s.flag .tf }, entered := .none } := by
  unfold State.startInstr
  rw [h]

/-- After it nothing more is. -/
theorem State.startInstr_later {s : State} (h : s.pfx.start ≠ none) : s.startInstr = s := by
  obtain ⟨o, h⟩ := Option.ne_none_iff_exists'.mp h
  unfold State.startInstr
  rw [h]

section
variable {s : State}

/-- Nothing follows a WAIT that waits (R467). -/
theorem State.finish_waiting (w : s.waiting = true) : s.finish = s := by simp [State.finish, w]

/-- A repeated string instruction that was interrupted ends without being counted (R463). -/
theorem State.finish_interrupted (w : s.waiting = false) (e : s.entry ≠ none) : s.finish = { s.endBoundary with pfx := Pfx.clear } := by
  obtain ⟨p, e⟩ := Option.ne_none_iff_exists'.mp e
  simp [State.finish, w, e]

/-- After a reset inside an instruction there is no boundary. -/
theorem State.finish_abandoned (w : s.waiting = false) (e : s.entry = none) (a : s.entered = .abandoned) : s.finish = { s with entered := .none } := by
  simp [State.finish, w, e, a]

/-- Every other instruction is complete (R461, R572). -/
theorem State.finish_complete (w : s.waiting = false) (e : s.entry = none) (a : s.entered ≠ .abandoned) : s.finish = s.completeInstr := by
  cases k : s.entered with
  | none => simp [State.finish, w, e, k]
  | internal => simp [State.finish, w, e, k]
  | abandoned => exact absurd k a

end

/-- Settles O6: what the taken bytes leave, and the cases of what follows a meaning. -/
theorem instrBounds : Obligations.InstrBounds := by
  unfold Obligations.InstrBounds
  refine ⟨fun s bs c => ?_, fun s => ⟨State.finish_waiting, State.finish_interrupted, State.finish_abandoned, State.finish_complete⟩⟩
  obtain ⟨p, i, e, start⟩ := s.startInstr_eq
  rw [c.beginInstr]
  refine ⟨?_, ?_, fun first => ?_, fun later => ?_, ?_⟩
  · rw [start]
  · rw [start]
  · rw [State.startInstr_first first]
    exact ⟨rfl, rfl, rfl⟩
  · rw [State.startInstr_later later]
    exact ⟨rfl, rfl, rfl⟩
  · rw [start]
    exact ⟨rfl, rfl, rfl, rfl, rfl, rfl, rfl⟩

end Sys2Proof.Machine

/-!
O7, O8. Reset (R50-R59).
-/

namespace Sys2Proof.Machine

/-- Every flag is clear in the FLAGS of reset (R53). -/
theorem State.reset_flag (f : Flag) : State.reset.flag f = false := by cases f <;> decide

/-- Settles O7: every value is that of `State.initial`. -/
theorem resetValues : Obligations.ResetValues := by
  unfold Obligations.ResetValues
  exact ⟨rfl, rfl, by decide, rfl, rfl, rfl, State.reset_flag, by decide, rfl, rfl, rfl, rfl, rfl, rfl, rfl, rfl, rfl, rfl, rfl, rfl, rfl, rfl, rfl⟩

/-- The queue after reset is empty, with the capacity of the configuration (R55). -/
theorem State.reset_queueInv : QueueInv State.reset :=
  ⟨by decide, by decide, by decide, by decide, by decide⟩

/-- Settles O8: FLAGS is its own hardwired view, the queue is empty and no fetch is in flight. That no memory byte is listed and that no operation has a start
is the model's (logs 2, 4). -/
theorem resetInv : Obligations.ResetInv := by
  unfold Obligations.ResetInv
  exact {
    mem := rfl
    flags := by decide
    start := nofun
    queue := State.reset_queueInv
    inflight := rfl
    discard := nofun
    next := by decide
    noFault := by decide
    direct := rfl }

end Sys2Proof.Machine

/-!
The regions of memory (R82, R83): which accesses are recorded, what a read gets, what a write changes.
-/

namespace Sys2Proof

/-- Outside RAM and ROM every access of memory is recorded (R84; log 13). -/
theorem Params.isEvent_memory {p : Params} {a : PAddr} (h : Machine.plainKind (p.memKind a) = false) : p.isEvent .memory a = true := by
  unfold Params.isEvent
  cases kind : p.memKind a with
  | ram => simp [kind, Machine.plainKind] at h
  | rom => simp [kind, Machine.plainKind] at h
  | mmio d => rfl
  | none => rfl

/-- An access of memory has AddressFault where nothing answers (R83, R95). -/
theorem Params.addrFault_memory (p : Params) (a : PAddr) : p.addrFault .memory a = (p.memKind a == .none) := rfl

end Sys2Proof

namespace Sys2Proof.Machine

section
variable {s : State}

/-- A byte of RAM or ROM is read as memory holds it (R82). -/
theorem State.readValue_plain {a : PAddr} (known : Bool) (plain : plainKind (s.cfg.memKind a) = true) :
    s.readValue known .memory a = (Memory.read s.mem a.toNat, s) := by
  unfold State.readValue
  cases kind : s.cfg.memKind a with
  | ram => rfl
  | rom => rfl
  | mmio d => simp [kind, plainKind] at plain
  | none => simp [kind, plainKind] at plain

theorem State.storeValue_ram {a : PAddr} (ram : s.cfg.memKind a = .ram) (v : Byte) :
    s.storeValue .memory a v = { s with mem := Memory.write s.mem a.toNat v } := by
  simp only [State.storeValue, ram]

/-- Only RAM is changed by a write (R82, R83). -/
theorem State.storeValue_other {sp : Space} {a : PAddr} (other : sp ≠ .memory ∨ s.cfg.memKind a ≠ .ram) (v : Byte) : s.storeValue sp a v = s := by
  unfold State.storeValue
  cases sp with
  | memory =>
    cases kind : s.cfg.memKind a with
    | ram => simp [kind] at other
    | rom => rfl
    | mmio d => rfl
    | none => rfl
  | io => rfl
  | inta => rfl
  | halt => rfl

end

end Sys2Proof.Machine

/-!
O53. An access to RAM or ROM is as Laws/Ops.lean says; any other address is recorded, and holds nothing a write could change.
-/

namespace Sys2Proof.Machine

section
variable {s : State} (h : s.Direct) {g o : Word}
include h

theorem State.rdB_direct : s.rdB g o = s.directRead .memory (phys g o) := by
  have direct : s.port.replay = false := h
  simp [State.rdB, State.busRead, direct]

theorem State.wrB_direct (v : Byte) : s.wrB g o v = s.directWrite .memory (phys g o) v := by
  have direct : s.port.replay = false := h
  simp [State.wrB, State.busWrite, direct]

/-- Where nothing answers a read gives the open-bus value (R83). -/
theorem State.rdB_openBus {b : Byte} (kind : s.cfg.memKind (phys g o) = .none) (const : s.cfg.openBus = .const b) : (s.rdB g o).1 = b := by
  simp [State.rdB_direct h, State.directRead, State.readValue, kind, State.openBusByte, const]

section
variable (other : plainKind (s.cfg.memKind (phys g o)) = false)
include other

/-- A read outside RAM and ROM is recorded and leaves memory alone (R84; log 13). -/
theorem State.rdB_recorded : (s.rdB g o).2.events =
      s.events ++ [⟨.memory, .read, phys g o, (s.rdB g o).1, s.cfg.addrFault .memory (phys g o)⟩] ∧ (s.rdB g o).2.mem = s.mem := by
  obtain ⟨v, m, read⟩ := s.readValue_eq false .memory (phys g o)
  simp [State.rdB_direct h, State.directRead, read, State.record_eq, Params.isEvent_memory other]

/-- A write outside RAM and ROM is recorded and leaves memory alone (R82, R83, R84; log 13). -/
theorem State.wrB_recorded (v : Byte) : (s.wrB g o v).events =
      s.events ++ [⟨.memory, .write, phys g o, v, s.cfg.addrFault .memory (phys g o)⟩] ∧ (s.wrB g o v).mem = s.mem := by
  have notRam : (s.noteStale (phys g o)).cfg.memKind (phys g o) ≠ .ram := by
    intro (ram : s.cfg.memKind (phys g o) = .ram)
    simp [ram, plainKind] at other
  have ignored := State.storeValue_other (sp := .memory) (.inr notRam) v
  have recorded : (s.noteStale (phys g o)).cfg.isEvent .memory (phys g o) = true := Params.isEvent_memory other
  rw [State.wrB_direct h]
  simp only [State.directWrite, beq_self_eq_true, if_true, ignored, State.record_eq, recorded]
  exact ⟨rfl, rfl⟩

end

end

/-- RAM holds the byte last written to it (R82). -/
theorem State.read_poke_ram {s : State} (w : Memory.wf s.mem = true) {g o : Word} (ram : s.cfg.memKind (phys g o) = .ram) (v : Byte) :
    Memory.read (s.poke g o v).mem (phys g o).toNat = v := by
  have stored : s.storedByte g o v = v := by simp [State.storedByte, ram]
  exact (State.byteAt_poke w g o v).trans stored

/-- ROM ignores a write (R82). -/
theorem State.poke_rom {s : State} {g o : Word} (rom : s.cfg.memKind (phys g o) = .rom) (v : Byte) : (s.poke g o v).mem = s.mem := by
  simp [State.poke, rom]

/-- Settles O53: RAM and ROM by the laws of plain accesses, any other address by what is recorded. -/
theorem memoryAccess : Obligations.MemoryAccess := by
  unfold Obligations.MemoryAccess
  intro s g o v ready
  refine ⟨phys_toNat g o, fun ram => ?_, fun rom => ?_, fun d mmio => ?_, fun unmapped => ⟨fun b => State.rdB_openBus ready.direct unmapped, ?_⟩⟩
  · have plain : s.plainAt g o := congrArg plainKind ram
    rw [State.wrB_plain ready.direct plain]
    exact ⟨State.rdB_plain ready.direct plain, State.read_poke_ram ready.mem ram v, fun b => State.read_poke_other s g o v, State.poke_wf ready.mem g o v, rfl⟩
  · have plain : s.plainAt g o := congrArg plainKind rom
    rw [State.wrB_plain ready.direct plain]
    exact ⟨State.rdB_plain ready.direct plain, State.poke_rom rom v, rfl⟩
  · have noFault : s.cfg.addrFault .memory (phys g o) = false := by rw [Params.addrFault_memory, mmio]; rfl
    have read := State.rdB_recorded ready.direct (congrArg plainKind mmio)
    have written := State.wrB_recorded ready.direct (congrArg plainKind mmio) v
    rw [noFault] at read written
    exact ⟨read.1, read.2, written⟩
  · have fault : s.cfg.addrFault .memory (phys g o) = true := by rw [Params.addrFault_memory, unmapped]; rfl
    have read := State.rdB_recorded ready.direct (congrArg plainKind unmapped)
    have written := State.wrB_recorded ready.direct (congrArg plainKind unmapped) v
    rw [fault] at read written
    exact ⟨read.1, read.2, written⟩

end Sys2Proof.Machine

/-!
O54. What a tick does to the bus, by its phase. The device timing model moves first (R96), which no phase but a grant looks at.
-/

namespace Sys2Proof.Machine

section
variable {s : State} {c : Cycle}

theorem State.advanceCycle_t1 (h : s.bus = .t1 c) : ∃ d, s.advanceCycle = { s with devtm := d, bus := .t2 c } := by
  obtain ⟨d, devices⟩ := s.stepDevices_eq
  exact ⟨d, by simp only [State.advanceCycle, devices, h]⟩

theorem State.advanceCycle_t2 (h : s.bus = .t2 c) : ∃ d, s.advanceCycle = { s with devtm := d }.enterT3 c := by
  obtain ⟨d, devices⟩ := s.stepDevices_eq
  exact ⟨d, by simp only [State.advanceCycle, devices, h]⟩

/-- T3 and Tw are alike: while waits are left another Tw follows (R88). -/
theorem State.advanceCycle_wait (h : s.bus = .t3 c ∨ s.bus = .tw c) (waits : 0 < c.waitsLeft) :
    ∃ d, s.advanceCycle = { s with devtm := d, bus := .tw { c with waitsLeft := c.waitsLeft - 1 } } := by
  obtain ⟨d, devices⟩ := s.stepDevices_eq
  refine ⟨d, ?_⟩
  rcases h with h | h <;> simp only [State.advanceCycle, devices, h, waits, if_true]

/-- Then the transfer is committed on the way to T4 (R88). -/
theorem State.advanceCycle_commit (h : s.bus = .t3 c ∨ s.bus = .tw c) (waits : c.waitsLeft = 0) :
    ∃ d, s.advanceCycle = { { s with devtm := d }.commitTransfer c with bus := .t4 c } := by
  obtain ⟨d, devices⟩ := s.stepDevices_eq
  refine ⟨d, ?_⟩
  rcases h with h | h <;> simp only [State.advanceCycle, devices, h, waits, lt_irrefl, if_false]

theorem State.advanceCycle_grant (h : s.bus = .idle ∨ s.bus = .t4 c) : ∃ u : State, s.advanceCycle = u.grant := by
  obtain ⟨d, devices⟩ := s.stepDevices_eq
  rcases h with h | h <;> exact ⟨_, by simp only [State.advanceCycle, devices, h]; rfl⟩

/-- Entering T3 gives a read its data: that of memory, from RAM and ROM (R41; log 24). -/
theorem State.enterT3_spec (s : State) (c : Cycle) : ∃ d, (s.enterT3 c).bus = .t3 { c with data := d } ∧ (s.enterT3 c).mem = s.mem ∧ (c.dir = .write → d = c.data) ∧
    (c.dir = .read → c.space = .memory → plainKind (s.cfg.memKind c.addr) = true → d = Memory.read s.mem c.addr.toNat) := by
  obtain ⟨a, v, dir, sp, r, w, f⟩ := c
  cases dir with
  | write => exact ⟨v, rfl, rfl, fun _ => rfl, nofun⟩
  | read =>
    obtain ⟨d, m, value⟩ := s.readValue_eq true sp a
    refine ⟨(s.readValue true sp a).1, rfl, congrArg (·.2.mem) value, nofun, fun _ memory plain => ?_⟩
    rw [show sp = .memory from memory, State.readValue_plain true plain]

theorem State.commitTransfer_ram (write : c.dir = .write) (memory : c.space = .memory) (ram : s.cfg.memKind c.addr = .ram) :
    (s.commitTransfer c).mem = Memory.write s.mem c.addr.toNat c.data := by
  simp only [State.commitTransfer, write, memory, State.storeValue_ram ram, State.record_eq]

theorem State.commitTransfer_other (other : c.dir = .read ∨ c.space ≠ .memory ∨ s.cfg.memKind c.addr ≠ .ram) : (s.commitTransfer c).mem = s.mem := by
  cases dir : c.dir with
  | read => simp only [State.commitTransfer, dir, State.record_eq]
  | write =>
    have ignored := State.storeValue_other (other.resolve_left (by simp [dir])) c.data
    simp only [State.commitTransfer, dir, ignored, State.record_eq]

end

theorem State.startDma_bus (s : State) (ch : Nat) (q : DmaReq) : ∃ n, (s.startDma ch q).bus = .t1 n := by
  unfold State.startDma
  cases q.dir <;> exact ⟨_, rfl⟩

/-- A granted requester starts a cycle in T1; a requester with no request would leave the bus idle. -/
theorem State.startCycle_bus (s : State) (r : Requester) : (s.startCycle r).bus = .idle ∨ ∃ n, (s.startCycle r).bus = .t1 n := by
  cases r with
  | fetch => exact .inr ⟨_, rfl⟩
  | operand =>
    simp only [State.startCycle]
    cases s.eng.request with
    | none => exact .inl rfl
    | some q => exact .inr ⟨_, rfl⟩
  | dma ch =>
    simp only [State.startCycle]
    cases s.dmaReq ch with
    | none => exact .inl rfl
    | some q => exact .inr (State.startDma_bus _ ch q)
  | refresh =>
    simp only [State.startCycle]
    cases s.refreshReq with
    | none => exact .inl rfl
    | some a => exact .inr ⟨_, rfl⟩

/-- A grant point leads to T1 or to an idle bus (R87, R90). -/
theorem State.grant_bus (s : State) : s.grant.bus = .idle ∨ ∃ n, s.grant.bus = .t1 n := by
  unfold State.grant
  cases s.arbitrate with
  | none => exact .inl rfl
  | some r => exact s.startCycle_bus r

/-- Settles O54: by the phase the bus is in. -/
theorem busPhases : Obligations.BusPhases := by
  unfold Obligations.BusPhases
  intro s c
  refine ⟨fun h => ?_, fun h => ?_, fun h waits => ?_, fun h waits => ?_, fun h => ?_⟩
  · obtain ⟨d, moved⟩ := State.advanceCycle_t1 h
    rw [moved]
    exact ⟨rfl, rfl⟩
  · obtain ⟨d, moved⟩ := State.advanceCycle_t2 h
    rw [moved]
    exact State.enterT3_spec { s with devtm := d } c
  · obtain ⟨d, moved⟩ := State.advanceCycle_wait h waits
    rw [moved]
    exact ⟨rfl, rfl⟩
  · obtain ⟨d, moved⟩ := State.advanceCycle_commit h waits
    rw [moved]
    exact ⟨rfl, State.commitTransfer_ram (s := { s with devtm := d }), State.commitTransfer_other (s := { s with devtm := d })⟩
  · obtain ⟨u, granted⟩ := State.advanceCycle_grant h
    rw [granted]
    exact u.grant_bus

end Sys2Proof.Machine

/-!
O55. In the default ARB_ORDER the winner is the first candidate among refresh, DMA, fetch and operand; each kind has one where the claim says so, and none
elsewhere.
-/

namespace Sys2Proof.Machine

/-- The request of a DMA channel is the host's or the stubs' (log 38). -/
theorem State.dmaReq_isSome (s : State) (ch : Nat) :
    (s.dmaReq ch).isSome = ((s.hostLines.dma.getD ch none).isSome || (s.devtm.dreq.getD ch none).isSome) := Option.isSome_or

/-- Only a channel that one side drives can have a request. -/
theorem State.lt_dmaChannels {s : State} {ch : Nat} (wants : (s.dmaReq ch).isSome = true) : ch < s.dmaChannels := by
  by_contra beyond
  obtain ⟨host, stub⟩ : s.hostLines.dma.length ≤ ch ∧ s.devtm.dreq.length ≤ ch := by unfold State.dmaChannels at beyond; omega
  rw [State.dmaReq_isSome, List.getD_eq_default _ _ host, List.getD_eq_default _ _ stub] at wants
  cases wants

theorem State.dmaChannel_lowest {s : State} {ch : Nat} (wants : (s.dmaReq ch).isSome = true) (lowest : ∀ j < ch, (s.dmaReq j).isSome = false) :
    s.dmaChannel = some ch :=
  List.find?_range_eq_some.mpr ⟨wants, List.mem_range.mpr (State.lt_dmaChannels wants), fun j lt => by rw [lowest j lt]; rfl⟩

theorem State.dmaChannel_none {s : State} (quiet : ∀ j, (s.dmaReq j).isSome = false) : s.dmaChannel = none :=
  List.find?_range_eq_none.mpr fun j _ => by rw [quiet j]; rfl

theorem State.candidate_refresh (s : State) :
    s.candidate .refresh = if (s.hostLines.refresh.isSome || s.devtm.rfq.isSome) && !s.dmaHeld then some .refresh else none := by
  rw [← Option.isSome_or]
  cases held : s.dmaHeld with
  | true => simp [State.candidate, held]
  | false => cases request : s.hostLines.refresh.or s.devtm.rfq <;> simp [State.candidate, State.refreshReq, held, request]

section
variable {s : State}

theorem State.candidate_dma_some {ch : Nat} (free : s.dmaHeld = false) (wants : (s.dmaReq ch).isSome = true)
    (lowest : ∀ j < ch, (s.dmaReq j).isSome = false) : s.candidate .dma = some (.dma ch) := by
  simp [State.candidate, free, State.dmaChannel_lowest wants lowest]

theorem State.candidate_dma_none (nobody : s.dmaHeld = true ∨ ∀ j, (s.dmaReq j).isSome = false) : s.candidate .dma = none := by
  rcases nobody with held | quiet
  · simp [State.candidate, held]
  · simp [State.candidate, State.dmaChannel_none quiet]

/-- Fetch issue condition (R113), no fetch being granted between the INTA cycles (R451). -/
theorem State.fetchEligible_iff : s.fetchEligible = true ↔
    s.biu.queue.len + (if s.biu.fetchInflight then 1 else 0) + s.cfg.fetchFree ≤ s.cfg.qCap ∧ s.intr.halted = false ∧ s.flushDue = false ∧ s.eng.inta ≠ 1 := by
  simp [State.fetchEligible, State.betweenInta, and_assoc]

theorem State.candidate_operand_some (request : s.eng.request.isSome = true) (waiting : s.eng.granted = false) : s.candidate .operand = some .operand := by
  simp [State.candidate, request, waiting]

theorem State.candidate_operand_none (nobody : ¬(s.eng.request.isSome = true ∧ s.eng.granted = false)) : s.candidate .operand = none :=
  if_neg (by simpa using nobody)

theorem State.arbitrate_default (order : s.cfg.arbOrder = [.refresh, .dma, .fetch, .operand]) :
    s.arbitrate = (s.candidate .refresh).or ((s.candidate .dma).or ((s.candidate .fetch).or (s.candidate .operand))) := by
  have ranks : s.cfg.arbOrder = [.refresh] ++ ([.dma] ++ ([.fetch] ++ [.operand])) := order
  simp only [State.arbitrate, ranks, List.findSome?_append, List.findSome?_singleton]

end

/-- Settles O55: the first of the four kinds that has a candidate wins. -/
theorem arbitration : Obligations.Arbitration := by
  unfold Obligations.Arbitration
  intro s order held refresh wants dma noDma fetch operand
  have wanted : ∀ ch, (s.dmaReq ch).isSome = wants ch := s.dmaReq_isSome
  have refreshCandidate : s.candidate .refresh = if refresh then some .refresh else none := s.candidate_refresh
  have dmaSome : ∀ ch, dma ch → s.candidate .dma = some (.dma ch) := fun ch ⟨free, wantsCh, lowest⟩ =>
    State.candidate_dma_some free ((wanted ch).trans wantsCh) fun j lt => (wanted j).trans (lowest j lt)
  have dmaNone : noDma → s.candidate .dma = none := fun nobody =>
    State.candidate_dma_none (nobody.imp_right fun quiet j => (wanted j).trans (quiet j))
  have fetchSome : fetch → s.candidate .fetch = some .fetch := fun can => if_pos (State.fetchEligible_iff.mpr can)
  have fetchNone : ¬fetch → s.candidate .fetch = none := fun cannot => if_neg (cannot ∘ State.fetchEligible_iff.mp)
  have operandSome : operand → s.candidate .operand = some .operand := fun ⟨request, waiting⟩ => State.candidate_operand_some request waiting
  rw [State.arbitrate_default order, refreshCandidate]
  refine ⟨fun r => ?_, fun r ch d => ?_, fun r d f => ?_, fun r d f o => ?_, fun r d f o => ?_⟩
  · simp [r]
  · simp [r, dmaSome ch d]
  · simp [r, dmaNone d, fetchSome f]
  · simp [r, dmaNone d, fetchNone f, operandSome o]
  · simp [r, dmaNone d, fetchNone f, State.candidate_operand_none o]

end Sys2Proof.Machine

/-!
O56. The bytes in the queue stand at the `len` places from `head` on, round the buffer: a push fills the place after them, a pop gives up the first of them.
-/

namespace Sys2Proof.Machine

/-- A circular buffer of `n` bytes in shape (R40, R105). -/
def Queue.Shape (n : Nat) (q : Queue) : Prop :=
  q.buf.length = n ∧ q.head < q.buf.length ∧ q.len ≤ q.buf.length ∧ q.tail = (q.head + q.len) % q.buf.length

/-- The queue with a byte more at its end (R106). -/
def Queue.pushed (q : Queue) (b : Byte) : Queue := ⟨q.buf.set q.tail b, q.head, (q.tail + 1) % q.buf.length, q.len + 1⟩

/-- The queue without its oldest byte (R108). -/
def Queue.popped (q : Queue) : Queue := ⟨q.buf, (q.head + 1) % q.buf.length, q.tail, q.len - 1⟩

theorem queuePush_room {q : Queue} (room : q.len < q.buf.length) (b : Byte) : queuePush q b = some (q.pushed b) := if_pos room

theorem queuePush_full {q : Queue} (full : q.len = q.buf.length) (b : Byte) : queuePush q b = none := if_neg (by omega)

theorem queuePop_nonempty {q : Queue} (nonempty : 0 < q.len) : queuePop q = some (q.buf.getD q.head 0#8, q.popped) := if_pos nonempty

theorem queuePop_empty {q : Queue} (empty : q.len = 0) : queuePop q = none := if_neg (by omega)

theorem queueBytes_empty {q : Queue} (empty : q.len = 0) : queueBytes q = [] := by simp [queueBytes, empty]

section
variable {n : Nat} {q : Queue} (h : q.Shape n)
include h

/-- The place a push fills is none of those in use. -/
theorem Queue.Shape.tail_ne (room : q.len < q.buf.length) {i : Nat} (hi : i < q.len) : q.tail ≠ (q.head + i) % q.buf.length := by
  obtain ⟨-, -, -, tail⟩ := h
  intro same
  have congruent : q.head + q.len ≡ q.head + i [MOD q.buf.length] := tail.symm.trans same
  have := (congruent.add_left_cancel' q.head).eq_of_lt_of_lt room (by omega)
  omega

theorem Queue.Shape.queueBytes_pushed (room : q.len < q.buf.length) (b : Byte) : queueBytes (q.pushed b) = queueBytes q ++ [b] := by
  have old : ∀ i ∈ List.range q.len, (q.buf.set q.tail b).getD ((q.head + i) % q.buf.length) 0#8 = q.buf.getD ((q.head + i) % q.buf.length) 0#8 := by
    intro i hi
    have free := h.tail_ne room (List.mem_range.mp hi)
    simp [List.getD_eq_getElem?_getD, List.getElem?_set_ne free]
  obtain ⟨-, -, -, tail⟩ := h
  have new : (q.buf.set q.tail b).getD ((q.head + q.len) % q.buf.length) 0#8 = b := by
    have place : q.tail < q.buf.length := tail ▸ Nat.mod_lt _ (by omega)
    rw [← tail]
    simp [List.getD_eq_getElem?_getD, place]
  simp only [queueBytes, Queue.pushed, List.length_set, List.range_succ, List.map_append, List.map_cons, List.map_nil, new, List.map_congr_left old]

theorem Queue.Shape.pushed (room : q.len < q.buf.length) (b : Byte) : (q.pushed b).Shape n := by
  obtain ⟨size, head, -, tail⟩ := h
  refine ⟨by simp [Queue.pushed, size], by simpa [Queue.pushed] using head, by simpa [Queue.pushed] using room, ?_⟩
  simp only [Queue.pushed, List.length_set]
  rw [tail, Nat.mod_add_mod, Nat.add_assoc]

theorem Queue.Shape.queueBytes_popped (nonempty : 0 < q.len) : queueBytes q = q.buf.getD q.head 0#8 :: queueBytes q.popped := by
  obtain ⟨-, head, -, -⟩ := h
  obtain ⟨m, len⟩ : ∃ m, q.len = m + 1 := ⟨q.len - 1, by omega⟩
  simp only [queueBytes, Queue.popped, len, List.range_succ_eq_map, List.map_cons, List.map_map, Nat.add_zero, Nat.mod_eq_of_lt head, Nat.add_sub_cancel]
  congr 1
  refine List.map_congr_left fun i _ => ?_
  simp only [Function.comp, Nat.mod_add_mod]
  rw [Nat.succ_eq_one_add, Nat.add_assoc]

theorem Queue.Shape.popped (nonempty : 0 < q.len) : q.popped.Shape n := by
  obtain ⟨size, head, len, tail⟩ := h
  refine ⟨size, Nat.mod_lt _ (Nat.zero_lt_of_lt head), (Nat.sub_le _ _).trans len, ?_⟩
  have moved : q.head + 1 + (q.len - 1) = q.head + q.len := by omega
  simp only [Queue.popped]
  rw [Nat.mod_add_mod, moved, tail]

end

/-- Settles O56: by the cases of a full and an empty queue. -/
theorem queueFifo : Obligations.QueueFifo := by
  unfold Obligations.QueueFifo
  intro q shape (h : q.Shape q.buf.length)
  exact ⟨fun b room => ⟨_, queuePush_room room b, h.queueBytes_pushed room b, h.pushed room b⟩,
    fun b full => queuePush_full full b,
    fun nonempty => ⟨_, _, queuePop_nonempty nonempty, h.queueBytes_popped nonempty, h.popped nonempty⟩,
    fun empty => ⟨queuePop_empty empty, queueBytes_empty empty⟩⟩

end Sys2Proof.Machine

/-!
O57. The invariant counts the byte in flight, so a code fetch always finds room for its byte (R107, R113).
-/

namespace Sys2Proof.Machine

theorem QueueInv.shape {s : State} (h : QueueInv s) : s.biu.queue.Shape s.cfg.qCap := by
  have room := h.room
  exact ⟨h.capacity, by rw [h.capacity]; exact h.head, by rw [h.capacity]; omega, by rw [h.capacity]; exact h.tail⟩

/-- While a code fetch is in flight there is room for its byte. -/
theorem State.Inv.roomForFetch {s : State} (h : s.Inv) (fetching : s.biu.fetchInflight = true) : s.biu.queue.len < s.biu.queue.buf.length := by
  have room := h.queue.room
  rw [fetching, if_pos rfl] at room
  rw [h.queue.capacity]
  omega

theorem State.Inv.fetchInflight_of_bus {s : State} (h : s.Inv) {c : Cycle} (fetch : c.req = .fetch) (bus : s.bus = .t4 c) : s.biu.fetchInflight = true := by
  rw [h.inflight]
  simp [State.fetchOnBus, bus, Bus.cycle?, fetch]

theorem State.pushFetched_room {s : State} (room : s.biu.queue.len < s.biu.queue.buf.length) (b : Byte) :
    s.pushFetched b = { s with biu := { s.biu with queue := s.biu.queue.pushed b, pfp := s.biu.pfp + 1 } } := by
  unfold State.pushFetched
  rw [queuePush_room room]

theorem State.completeFetch_dropped {s : State} (drop : s.biu.fetchDiscard = true) (d : Delivery) :
    s.completeFetch d = { s with biu := { s.biu with fetchInflight := false, fetchDiscard := false, fetchFault := d.addrFault } } := by
  simp [State.completeFetch, drop]

theorem State.completeFetch_kept {s : State} (keep : s.biu.fetchDiscard = false) (room : s.biu.queue.len < s.biu.queue.buf.length) (d : Delivery) :
    s.completeFetch d = { s with biu := ⟨s.biu.queue.pushed d.data, s.biu.pfp + 1, false, false, d.addrFault⟩ } := by
  simp only [State.completeFetch, keep, Bool.false_eq_true, if_false]
  exact State.pushFetched_room (by exact room) d.data

theorem State.completeCycle_fetch {s : State} {c : Cycle} (fetch : c.req = .fetch) :
    s.completeCycle c = { s with lastBus := if c.space == Space.halt then s.lastBus else c.data }.completeFetch ⟨c.data, c.addrFault⟩ := by
  simp [State.completeCycle, fetch]

/-- Settles O57: a byte that is kept finds room, by the invariant. -/
theorem fetchCompletion : Obligations.FetchCompletion := by
  unfold Obligations.FetchCompletion
  intro s c h fetch bus
  have room := h.roomForFetch (h.fetchInflight_of_bus fetch bus)
  rw [State.completeCycle_fetch fetch]
  cases discard : s.biu.fetchDiscard with
  | true =>
    rw [State.completeFetch_dropped (by exact discard)]
    exact ⟨rfl, rfl, rfl, rfl, fun _ => ⟨rfl, rfl⟩, nofun⟩
  | false =>
    rw [State.completeFetch_kept (by exact discard) (by exact room)]
    exact ⟨rfl, rfl, rfl, rfl, nofun, fun _ => ⟨h.queue.shape.queueBytes_pushed room c.data, rfl⟩⟩

end Sys2Proof.Machine

/-!
O1. An instruction's bytes are its opcode and its operands, each written as the reader that the opcode map has for it expects them. There are few shapes of
operands, so one lemma for each shape reads all the instructions of that shape back.
-/

namespace Sys2Proof

/-- A property of every reg field is one of its eight values. -/
theorem regField_cases {P : BitVec 3 → Prop} (h0 : P 0#3) (h1 : P 1#3) (h2 : P 2#3) (h3 : P 3#3) (h4 : P 4#3) (h5 : P 5#3) (h6 : P 6#3) (h7 : P 7#3)
    (g : BitVec 3) : P g := by
  have eight : ∀ g : BitVec 3, g = 0#3 ∨ g = 1#3 ∨ g = 2#3 ∨ g = 3#3 ∨ g = 4#3 ∨ g = 5#3 ∨ g = 6#3 ∨ g = 7#3 := by decide
  rcases eight g with rfl | rfl | rfl | rfl | rfl | rfl | rfl | rfl <;> assumption

/-- A coprocessor operation is the low three bits of its opcode and a reg field (R399). -/
theorem escOperation_append (n : BitVec 6) : ∃ hi lo : BitVec 3, n = hi ++ lo := by revert n; decide

theorem encode_esc (hi lo : BitVec 3) (e : Rm16) : encode (.esc (hi ++ lo) e) = opReg 0xD8#8 hi :: encE16 lo e := by
  have high : ∀ hi lo : BitVec 3, (hi ++ lo).extractLsb' 3 3 = hi := by decide
  have low : ∀ hi lo : BitVec 3, (hi ++ lo).extractLsb' 0 3 = lo := by decide
  rw [encode, high, low]

theorem decodeOp_esc (hi : BitVec 3) : decodeOp (opReg 0xD8#8 hi) = withE16 fun lo => .esc (hi ++ lo) := by
  cases hi using regField_cases <;> rfl

/-- The memory operand that an instruction's ModR/M byte names has an encoding where the instruction has. -/
theorem Instr.eaWf {i : Instr} (wf : i.wf = true) {R : Type} {e : Rm R} (same : i.ea? = e.ea?) : e.EaWf := by
  intro ea names
  obtain ⟨-, ok⟩ := Bool.and_eq_true_iff.mp wf
  rwa [same, names] at ok

/-- The bytes of `i` decode to it, whatever follows them. -/
def DecodesBack (i : Instr) : Prop := ∀ rest, decode (encode i ++ rest) = .ok i rest

namespace DecodesBack

variable {i : Instr} {op : Byte}

/-- After the opcode, what `decodeOp` makes of the bytes that follow. -/
theorem of {used : List Byte} (enc : encode i = op :: used) (read : ∀ rest, decodeOp op (used ++ rest) = .ok i rest) : DecodesBack i := by
  intro rest
  rw [enc]
  exact read rest

theorem word {mk : Word → Instr} {w : Word} (enc : encode (mk w) = op :: wordBytes w) (reader : decodeOp op = withWord mk) : DecodesBack (mk w) :=
  .of enc fun rest => by rw [reader, withWord, takeWord_bytes]

theorem far {mk : Word → Word → Instr} {off sel : Word} (enc : encode (mk off sel) = op :: (wordBytes off ++ wordBytes sel))
    (reader : decodeOp op = withFar mk) : DecodesBack (mk off sel) :=
  .of enc fun rest => by rw [reader, withFar, List.append_assoc, takeWord_bytes, takeWord_bytes]

section
variable {e : Rm8} (ea : e.EaWf)
include ea

variable {g : BitVec 3} {k : BitVec 3 → Rm8 → List Byte → DecodeResult}

/-- An E operand, then the operands that the reader `f` takes behind it, by `k`. -/
theorem e8Then (f : List Byte → DecodeResult) {used : List Byte} (enc : encode i = op :: (encE8 g e ++ used)) (reader : decodeOp op = f)
    (shape : f = fun bs => takeE8 bs k) (read : ∀ rest, k g e (used ++ rest) = .ok i rest) : DecodesBack i :=
  .of enc fun rest => by rw [reader, shape, List.append_assoc]; exact (takeE8_encE8 g e ea _ k).trans (read rest)

/-- An E operand alone. -/
theorem e8 (f : List Byte → DecodeResult) (enc : encode i = op :: encE8 g e) (reader : decodeOp op = f)
    (shape : f = fun bs => takeE8 bs k) (read : ∀ rest, k g e rest = .ok i rest) : DecodesBack i :=
  .e8Then ea f (used := []) (by rw [enc, List.append_nil]) reader shape read

variable {r : Reg8}

theorem eg8 {mk : Rm8 → Reg8 → Instr} (enc : encode (mk e r) = op :: encE8 r.code e) (reader : decodeOp op = withEG8 mk) : DecodesBack (mk e r) :=
  .e8 ea (withEG8 mk) enc reader rfl fun _ => by rw [Reg8.ofCode_code]

theorem ge8 {mk : Reg8 → Rm8 → Instr} (enc : encode (mk r e) = op :: encE8 r.code e) (reader : decodeOp op = withGE8 mk) : DecodesBack (mk r e) :=
  .e8 ea (withGE8 mk) enc reader rfl fun _ => by rw [Reg8.ofCode_code]

end

section
variable {e : Rm16} (ea : e.EaWf)
include ea

variable {g : BitVec 3} {k : BitVec 3 → Rm16 → List Byte → DecodeResult}

/-- An E operand, then the operands that the reader `f` takes behind it, by `k`. -/
theorem e16Then (f : List Byte → DecodeResult) {used : List Byte} (enc : encode i = op :: (encE16 g e ++ used)) (reader : decodeOp op = f)
    (shape : f = fun bs => takeE16 bs k) (read : ∀ rest, k g e (used ++ rest) = .ok i rest) : DecodesBack i :=
  .of enc fun rest => by rw [reader, shape, List.append_assoc]; exact (takeE16_encE16 g e ea _ k).trans (read rest)

/-- An E operand alone. -/
theorem e16 (f : List Byte → DecodeResult) (enc : encode i = op :: encE16 g e) (reader : decodeOp op = f)
    (shape : f = fun bs => takeE16 bs k) (read : ∀ rest, k g e rest = .ok i rest) : DecodesBack i :=
  .e16Then ea f (used := []) (by rw [enc, List.append_nil]) reader shape read

variable {r : Reg16}

theorem eg16 {mk : Rm16 → Reg16 → Instr} (enc : encode (mk e r) = op :: encE16 r.code e) (reader : decodeOp op = withEG16 mk) : DecodesBack (mk e r) :=
  .e16 ea (withEG16 mk) enc reader rfl fun _ => by rw [Reg16.ofCode_code]

theorem ge16 {mk : Reg16 → Rm16 → Instr} (enc : encode (mk r e) = op :: encE16 r.code e) (reader : decodeOp op = withGE16 mk) : DecodesBack (mk r e) :=
  .e16 ea (withGE16 mk) enc reader rfl fun _ => by rw [Reg16.ofCode_code]

end

end DecodesBack

/-- Every instruction that has an encoding is read back from it. -/
theorem decodesBack (i : Instr) (wf : i.wf = true) : DecodesBack i := by
  cases i with
  | segES | daa | segCS | das | segSS | aaa | segDS | aas | nop | cbw | cwd | wait | pushf | popf | sahf | lahf | movsb | movsw | cmpsb | cmpsw
  | stosb | stosw | lodsb | lodsw | scasb | scasw | int3 | into | iret | salc | xlat | inALDX | inAXDX | outDXAL | outDXAX | repne | rep | hlt | cmc
  | clc | stc | cli | sti | cld | std | addALIb imm | orALIb imm | adcALIb imm | sbbALIb imm | andALIb imm | subALIb imm | xorALIb imm | cmpALIb imm
  | testALIb imm | intIb n | aam n | aad n | loopneJb disp | loopeJb disp | loopJb disp | jcxzJb disp | inALIb port | inAXIb port | outIbAL port
  | outIbAX port | jmpJb disp => exact .of rfl fun _ => rfl
  | ret v | retf v | lock v | joJb v disp | jnoJb v disp | jbJb v disp | jnbJb v disp | jzJb v disp | jnzJb v disp | jbeJb v disp | jnbeJb v disp
  | jsJb v disp | jnsJb v disp | jpJb v disp | jnpJb v disp | jlJb v disp | jnlJb v disp | jleJb v disp | jnleJb v disp =>
    cases v <;> exact .of rfl fun _ => rfl
  | incReg r | decReg r | pushReg r | popReg r | movRegIb r imm => cases r <;> exact .of rfl fun _ => rfl
  | xchgAX r =>
    cases r with
    | ax => exact absurd wf (by decide)
    | cx | dx | bx | sp | bp | si | di => exact .of rfl fun _ => rfl
  | pushSreg s | popSreg s => cases s <;> exact .of rfl fun _ => rfl
  | addAXIv imm | orAXIv imm | adcAXIv imm | sbbAXIv imm | andAXIv imm | subAXIv imm | xorAXIv imm | cmpAXIv imm | movALOb off | movAXOv off
  | movObAL off | movOvAX off | testAXIv imm | callJv disp | jmpJv disp => exact .word rfl rfl
  | retIw v n | retfIw v n => cases v <;> exact .word rfl rfl
  | movRegIv r imm => cases r <;> exact .word rfl rfl
  | callAp off sel | jmpAp off sel => exact .far rfl rfl
  | addEbGb e g | orEbGb e g | adcEbGb e g | sbbEbGb e g | andEbGb e g | subEbGb e g | xorEbGb e g | cmpEbGb e g | testEbGb e g | xchgEbGb e g
  | movEbGb e g => exact .eg8 (Instr.eaWf wf rfl) rfl rfl
  | addGbEb g e | orGbEb g e | adcGbEb g e | sbbGbEb g e | andGbEb g e | subGbEb g e | xorGbEb g e | cmpGbEb g e | movGbEb g e =>
    exact .ge8 (Instr.eaWf wf rfl) rfl rfl
  | addEvGv e g | orEvGv e g | adcEvGv e g | sbbEvGv e g | andEvGv e g | subEvGv e g | xorEvGv e g | cmpEvGv e g | testEvGv e g | xchgEvGv e g
  | movEvGv e g => exact .eg16 (Instr.eaWf wf rfl) rfl rfl
  | addGvEv g e | orGvEv g e | adcGvEv g e | sbbGvEv g e | andGvEv g e | subGvEv g e | xorGvEv g e | cmpGvEv g e | movGvEv g e | leaGvM g e
  | lesGvMp g e | ldsGvMp g e => exact .ge16 (Instr.eaWf wf rfl) rfl rfl
  | setmoEb e | setmocEb e | incEb e | decEb e | fe2 e | fe3 e | fe4 e | fe5 e | fe6 e | fe7 e =>
    exact .e8 (Instr.eaWf wf rfl) (withE8 _) rfl rfl rfl fun _ => rfl
  | rolEb c e | rorEb c e | rclEb c e | rcrEb c e | shlEb c e | shrEb c e | sarEb c e =>
    cases c <;> exact .e8 (Instr.eaWf wf rfl) (withE8 _) rfl rfl rfl fun _ => rfl
  | notEb e | negEb e | mulEb e | imulEb e | divEb e | idivEb e => exact .e8 (Instr.eaWf wf rfl) decodeF6 rfl rfl rfl fun _ => rfl
  | movEbIb reg e imm => exact .e8Then (Instr.eaWf wf rfl) (withE8I8 _) rfl rfl rfl fun _ => rfl
  | addEbIb v e imm | orEbIb v e imm | adcEbIb v e imm | sbbEbIb v e imm | andEbIb v e imm | subEbIb v e imm | xorEbIb v e imm | cmpEbIb v e imm =>
    cases v <;> exact .e8Then (Instr.eaWf wf rfl) (withE8I8 _) rfl rfl rfl fun _ => rfl
  | testEbIb v e imm => cases v <;> exact .e8Then (Instr.eaWf wf rfl) decodeF6 rfl rfl rfl fun _ => rfl
  | setmoEv e | setmocEv e | incEv e | decEv e | callEv e | callMp e | jmpEv e | jmpMp e | popEv reg e =>
    exact .e16 (Instr.eaWf wf rfl) (withE16 _) rfl rfl rfl fun _ => rfl
  | rolEv c e | rorEv c e | rclEv c e | rcrEv c e | shlEv c e | shrEv c e | sarEv c e =>
    cases c <;> exact .e16 (Instr.eaWf wf rfl) (withE16 _) rfl rfl rfl fun _ => rfl
  | notEv e | negEv e | mulEv e | imulEv e | divEv e | idivEv e => exact .e16 (Instr.eaWf wf rfl) decodeF7 rfl rfl rfl fun _ => rfl
  | pushEv v e => cases v <;> exact .e16 (Instr.eaWf wf rfl) (withE16 _) rfl rfl rfl fun _ => rfl
  | movEwSw v s e => cases v <;> cases s <;> exact .e16 (Instr.eaWf wf rfl) (withE16 fun g => .movEwSw (Enc.ofReg g) (SReg.ofReg g)) rfl rfl rfl fun _ => rfl
  | movSwEw v s e => cases v <;> cases s <;> exact .e16 (Instr.eaWf wf rfl) (withE16 fun g => .movSwEw (Enc.ofReg g) (SReg.ofReg g)) rfl rfl rfl fun _ => rfl
  | esc n e =>
    obtain ⟨hi, lo, rfl⟩ := escOperation_append n
    exact .e16 (Instr.eaWf wf rfl) _ (encode_esc hi lo e) (decodeOp_esc hi) rfl fun _ => rfl
  | addEvIb e imm | orEvIb e imm | adcEvIb e imm | sbbEvIb e imm | andEvIb e imm | subEvIb e imm | xorEvIb e imm | cmpEvIb e imm =>
    exact .e16Then (Instr.eaWf wf rfl) (withE16I8 _) rfl rfl rfl fun _ => rfl
  | addEvIv e imm | orEvIv e imm | adcEvIv e imm | sbbEvIv e imm | andEvIv e imm | subEvIv e imm | xorEvIv e imm | cmpEvIv e imm | movEvIv reg e imm =>
    exact .e16Then (Instr.eaWf wf rfl) (withE16I16 _) rfl rfl rfl fun _ => takeWord_bytes _ _ _
  | testEvIv v e imm => cases v <;> exact .e16Then (Instr.eaWf wf rfl) decodeF7 rfl rfl rfl fun _ => takeWord_bytes _ _ _

/-- Settles O1: by the shape of each constructor's operands. -/
theorem decodeOfEncode : Obligations.DecodeOfEncode := decodesBack

end Sys2Proof

/-!
O2. What a reader answers is the bytes it has taken, spelled again by the encoder: byte by byte for the readers, then for each shape of operands, then for each
opcode of the map.
-/

namespace Sys2Proof

/-- What `f` answers where the bytes `taken` have been read is well-formed, and encodes to those and the ones `f` takes. -/
def Respells (taken : List Byte) (f : List Byte → DecodeResult) : Prop :=
  ∀ bs i rest, f bs = .ok i rest → i.wf = true ∧ encode i ++ rest = taken ++ bs

/-- `i` is spelled `bytes`, and has an encoding where its E operand `e` has one. -/
def SpelledWith {R : Type} (i : Instr) (e : Rm R) (bytes : List Byte) : Prop := encode i = bytes ∧ i.ea? = e.ea? ∧ i.regOk = true

namespace Respells

section
variable {taken : List Byte}

theorem ok {i : Instr} (enc : encode i = taken) (wf : i.wf = true) : Respells taken fun bs => .ok i bs := by
  intro bs j rest h
  obtain ⟨rfl, rfl⟩ : i = j ∧ bs = rest := by simpa using h
  exact ⟨wf, by rw [enc]⟩

theorem okE {R : Type} {i : Instr} {e : Rm R} (form : SpelledWith i e taken) (ea : e.EaWf) : Respells taken fun bs => .ok i bs := by
  obtain ⟨enc, same, reg⟩ := form
  exact ok enc (Instr.wf_of ea same reg)

theorem byte {k : Byte → List Byte → DecodeResult} (h : ∀ b, Respells (taken ++ [b]) (k b)) : Respells taken fun bs => takeByte bs k := by
  intro bs i rest read
  obtain ⟨b, tail, rfl, answer⟩ := takeByte_inv read
  simpa using h b tail i rest answer

theorem word {k : Word → List Byte → DecodeResult} (h : ∀ w, Respells (taken ++ wordBytes w) (k w)) : Respells taken fun bs => takeWord bs k := by
  intro bs i rest read
  obtain ⟨w, tail, rfl, answer⟩ := takeWord_inv read
  simpa using h w tail i rest answer

theorem e8 {k : BitVec 3 → Rm8 → List Byte → DecodeResult} (h : ∀ g e, e.EaWf → Respells (taken ++ encE8 g e) (k g e)) :
    Respells taken fun bs => takeE8 bs k := by
  intro bs i rest read
  obtain ⟨g, e, tail, ea, rfl, answer⟩ := takeE8_inv read
  simpa using h g e ea tail i rest answer

theorem e16 {k : BitVec 3 → Rm16 → List Byte → DecodeResult} (h : ∀ g e, e.EaWf → Respells (taken ++ encE16 g e) (k g e)) :
    Respells taken fun bs => takeE16 bs k := by
  intro bs i rest read
  obtain ⟨g, e, tail, ea, rfl, answer⟩ := takeE16_inv read
  simpa using h g e ea tail i rest answer

end

/-! The operand shapes behind an opcode. Each `form` says that the encoder writes that opcode and these operands; it holds by evaluating `encode`, for a group at
each value of the reg field, so it is filled in by default. -/

section
variable {op : Byte}

theorem plain {i : Instr} (form : encode i = [op] ∧ i.wf = true := by exact ⟨rfl, rfl⟩) : Respells [op] (plain i) := .ok form.1 form.2

theorem withByte {mk : Byte → Instr} (form : ∀ b, encode (mk b) = [op, b] ∧ (mk b).wf = true := by exact fun _ => ⟨rfl, rfl⟩) :
    Respells [op] (withByte mk) :=
  .byte fun b => .ok (form b).1 (form b).2

theorem withWord {mk : Word → Instr} (form : ∀ w, encode (mk w) = op :: wordBytes w ∧ (mk w).wf = true := by exact fun _ => ⟨rfl, rfl⟩) :
    Respells [op] (withWord mk) :=
  .word fun w => .ok (form w).1 (form w).2

theorem withFar {mk : Word → Word → Instr}
    (form : ∀ off sel, encode (mk off sel) = op :: (wordBytes off ++ wordBytes sel) ∧ (mk off sel).wf = true := by exact fun _ _ => ⟨rfl, rfl⟩) :
    Respells [op] (withFar mk) :=
  .word fun off => .word fun sel => .ok (form off sel).1 (form off sel).2

theorem withEG8 {mk : Rm8 → Reg8 → Instr}
    (form : ∀ e r, SpelledWith (mk e r) e (op :: encE8 r.code e) := by exact fun _ _ => ⟨rfl, rfl, rfl⟩) : Respells [op] (withEG8 mk) :=
  .e8 fun g e ea => .okE (by simpa [Reg8.code_ofCode] using form e (Reg8.ofCode g)) ea

theorem withGE8 {mk : Reg8 → Rm8 → Instr}
    (form : ∀ r e, SpelledWith (mk r e) e (op :: encE8 r.code e) := by exact fun _ _ => ⟨rfl, rfl, rfl⟩) : Respells [op] (withGE8 mk) :=
  .e8 fun g e ea => .okE (by simpa [Reg8.code_ofCode] using form (Reg8.ofCode g) e) ea

theorem withE8 {mk : BitVec 3 → Rm8 → Instr}
    (form : ∀ g e, SpelledWith (mk g e) e (op :: encE8 g e) := by intro g; cases g using regField_cases <;> exact fun _ => ⟨rfl, rfl, rfl⟩) :
    Respells [op] (withE8 mk) :=
  .e8 fun g e ea => .okE (form g e) ea

theorem withEG16 {mk : Rm16 → Reg16 → Instr}
    (form : ∀ e r, SpelledWith (mk e r) e (op :: encE16 r.code e) := by exact fun _ _ => ⟨rfl, rfl, rfl⟩) : Respells [op] (withEG16 mk) :=
  .e16 fun g e ea => .okE (by simpa [Reg16.code_ofCode] using form e (Reg16.ofCode g)) ea

theorem withGE16 {mk : Reg16 → Rm16 → Instr}
    (form : ∀ r e, SpelledWith (mk r e) e (op :: encE16 r.code e) := by exact fun _ _ => ⟨rfl, rfl, rfl⟩) : Respells [op] (withGE16 mk) :=
  .e16 fun g e ea => .okE (by simpa [Reg16.code_ofCode] using form (Reg16.ofCode g) e) ea

theorem withE16 {mk : BitVec 3 → Rm16 → Instr}
    (form : ∀ g e, SpelledWith (mk g e) e (op :: encE16 g e) := by intro g; cases g using regField_cases <;> exact fun _ => ⟨rfl, rfl, rfl⟩) :
    Respells [op] (withE16 mk) :=
  .e16 fun g e ea => .okE (form g e) ea

theorem withE8I8 {mk : BitVec 3 → Rm8 → Byte → Instr}
    (form : ∀ g e imm, SpelledWith (mk g e imm) e (op :: (encE8 g e ++ [imm])) := by
      intro g; cases g using regField_cases <;> exact fun _ _ => ⟨rfl, rfl, rfl⟩) :
    Respells [op] (withE8I8 mk) :=
  .e8 fun g e ea => .byte fun imm => .okE (form g e imm) ea

theorem withE16I8 {mk : BitVec 3 → Rm16 → Byte → Instr}
    (form : ∀ g e imm, SpelledWith (mk g e imm) e (op :: (encE16 g e ++ [imm])) := by
      intro g; cases g using regField_cases <;> exact fun _ _ => ⟨rfl, rfl, rfl⟩) :
    Respells [op] (withE16I8 mk) :=
  .e16 fun g e ea => .byte fun imm => .okE (form g e imm) ea

theorem withE16I16 {mk : BitVec 3 → Rm16 → Word → Instr}
    (form : ∀ g e imm, SpelledWith (mk g e imm) e (op :: (encE16 g e ++ wordBytes imm)) := by
      intro g; cases g using regField_cases <;> exact fun _ _ => ⟨rfl, rfl, rfl⟩) :
    Respells [op] (withE16I16 mk) :=
  .e16 fun g e ea => .word fun imm => .okE (form g e imm) ea

end

theorem decodeF6 : Respells [0xF6#8] decodeF6 := by
  refine .e8 fun g e ea => ?_
  cases g using regField_cases
  case h0 | h1 => exact .byte fun _ => .okE ⟨rfl, rfl, rfl⟩ ea
  all_goals exact .okE ⟨rfl, rfl, rfl⟩ ea

theorem decodeF7 : Respells [0xF7#8] decodeF7 := by
  refine .e16 fun g e ea => ?_
  cases g using regField_cases
  case h0 | h1 => exact .word fun _ => .okE ⟨rfl, rfl, rfl⟩ ea
  all_goals exact .okE ⟨rfl, rfl, rfl⟩ ea

/-! The opcode map, row by row, each opcode by the shape of its operands. -/

theorem decodeRow0 : ∀ n < 16, Respells [BitVec.ofNat 8 (0x00 + n)] (decodeRow0 n) := by
  intro n lt
  interval_cases n
  exacts [.withEG8, .withEG16, .withGE8, .withGE16, .withByte, .withWord, .plain, .plain,
    .withEG8, .withEG16, .withGE8, .withGE16, .withByte, .withWord, .plain, .plain]

theorem decodeRow1 : ∀ n < 16, Respells [BitVec.ofNat 8 (0x10 + n)] (decodeRow1 n) := by
  intro n lt
  interval_cases n
  exacts [.withEG8, .withEG16, .withGE8, .withGE16, .withByte, .withWord, .plain, .plain,
    .withEG8, .withEG16, .withGE8, .withGE16, .withByte, .withWord, .plain, .plain]

theorem decodeRow2 : ∀ n < 16, Respells [BitVec.ofNat 8 (0x20 + n)] (decodeRow2 n) := by
  intro n lt
  interval_cases n
  exacts [.withEG8, .withEG16, .withGE8, .withGE16, .withByte, .withWord, .plain, .plain,
    .withEG8, .withEG16, .withGE8, .withGE16, .withByte, .withWord, .plain, .plain]

theorem decodeRow3 : ∀ n < 16, Respells [BitVec.ofNat 8 (0x30 + n)] (decodeRow3 n) := by
  intro n lt
  interval_cases n
  exacts [.withEG8, .withEG16, .withGE8, .withGE16, .withByte, .withWord, .plain, .plain,
    .withEG8, .withEG16, .withGE8, .withGE16, .withByte, .withWord, .plain, .plain]

theorem decodeRow4 : ∀ n < 16, Respells [BitVec.ofNat 8 (0x40 + n)] (decodeRow4 n) := by
  intro n lt
  interval_cases n <;> exact .plain

theorem decodeRow5 : ∀ n < 16, Respells [BitVec.ofNat 8 (0x50 + n)] (decodeRow5 n) := by
  intro n lt
  interval_cases n <;> exact .plain

theorem decodeRow6 : ∀ n < 16, Respells [BitVec.ofNat 8 (0x60 + n)] (decodeRow6 n) := by
  intro n lt
  interval_cases n <;> exact .withByte

theorem decodeRow7 : ∀ n < 16, Respells [BitVec.ofNat 8 (0x70 + n)] (decodeRow7 n) := by
  intro n lt
  interval_cases n <;> exact .withByte

theorem decodeRow8 : ∀ n < 16, Respells [BitVec.ofNat 8 (0x80 + n)] (decodeRow8 n) := by
  intro n lt
  interval_cases n
  exacts [.withE8I8, .withE16I16, .withE8I8, .withE16I8, .withEG8, .withEG16, .withEG8, .withEG16,
    .withEG8, .withEG16, .withGE8, .withGE16, .withE16, .withGE16, .withE16, .withE16]

theorem decodeRow9 : ∀ n < 16, Respells [BitVec.ofNat 8 (0x90 + n)] (decodeRow9 n) := by
  intro n lt
  interval_cases n
  exacts [.plain, .plain, .plain, .plain, .plain, .plain, .plain, .plain,
    .plain, .plain, .withFar, .plain, .plain, .plain, .plain, .plain]

theorem decodeRowA : ∀ n < 16, Respells [BitVec.ofNat 8 (0xA0 + n)] (decodeRowA n) := by
  intro n lt
  interval_cases n
  exacts [.withWord, .withWord, .withWord, .withWord, .plain, .plain, .plain, .plain,
    .withByte, .withWord, .plain, .plain, .plain, .plain, .plain, .plain]

theorem decodeRowB : ∀ n < 16, Respells [BitVec.ofNat 8 (0xB0 + n)] (decodeRowB n) := by
  intro n lt
  interval_cases n
  exacts [.withByte, .withByte, .withByte, .withByte, .withByte, .withByte, .withByte, .withByte,
    .withWord, .withWord, .withWord, .withWord, .withWord, .withWord, .withWord, .withWord]

theorem decodeRowC : ∀ n < 16, Respells [BitVec.ofNat 8 (0xC0 + n)] (decodeRowC n) := by
  intro n lt
  interval_cases n
  exacts [.withWord, .plain, .withWord, .plain, .withGE16, .withGE16, .withE8I8, .withE16I16,
    .withWord, .plain, .withWord, .plain, .plain, .withByte, .plain, .plain]

theorem decodeRowD : ∀ n < 16, Respells [BitVec.ofNat 8 (0xD0 + n)] (decodeRowD n) := by
  intro n lt
  interval_cases n
  exacts [.withE8, .withE16, .withE8, .withE16, .withByte, .withByte, .plain, .plain,
    .withE16, .withE16, .withE16, .withE16, .withE16, .withE16, .withE16, .withE16]

theorem decodeRowE : ∀ n < 16, Respells [BitVec.ofNat 8 (0xE0 + n)] (decodeRowE n) := by
  intro n lt
  interval_cases n
  exacts [.withByte, .withByte, .withByte, .withByte, .withByte, .withByte, .withByte, .withByte,
    .withWord, .withWord, .withFar, .withByte, .plain, .plain, .plain, .plain]

theorem decodeRowF : ∀ n < 16, Respells [BitVec.ofNat 8 (0xF0 + n)] (decodeRowF n) := by
  intro n lt
  interval_cases n
  exacts [.plain, .plain, .plain, .plain, .plain, .plain, decodeF6, decodeF7,
    .plain, .plain, .plain, .plain, .plain, .plain, .withE8, .withE16]

/-- From the low nibbles of a row to the opcodes with its high nibble. -/
theorem ofRow {f : Nat → List Byte → DecodeResult} {row : Nat} (h : ∀ n < 16, Respells [BitVec.ofNat 8 (row * 16 + n)] (f n)) {op : Byte}
    (high : op.toNat / 16 = row) : Respells [op] (f (op.toNat % 16)) := by
  have opcode : op = BitVec.ofNat 8 (row * 16 + op.toNat % 16) := by rw [← high, Nat.div_add_mod', BitVec.ofNat_toNat, BitVec.setWidth_eq]
  have := h (op.toNat % 16) (Nat.mod_lt _ (by decide))
  rwa [← opcode] at this

theorem decodeOp (op : Byte) : Respells [op] (decodeOp op) := by
  have size := op.isLt
  unfold Sys2Proof.decodeOp
  split
  · exact ofRow decodeRow0 ‹_›
  · exact ofRow decodeRow1 ‹_›
  · exact ofRow decodeRow2 ‹_›
  · exact ofRow decodeRow3 ‹_›
  · exact ofRow decodeRow4 ‹_›
  · exact ofRow decodeRow5 ‹_›
  · exact ofRow decodeRow6 ‹_›
  · exact ofRow decodeRow7 ‹_›
  · exact ofRow decodeRow8 ‹_›
  · exact ofRow decodeRow9 ‹_›
  · exact ofRow decodeRowA ‹_›
  · exact ofRow decodeRowB ‹_›
  · exact ofRow decodeRowC ‹_›
  · exact ofRow decodeRowD ‹_›
  · exact ofRow decodeRowE ‹_›
  · exact ofRow (row := 15) decodeRowF (by grind)

end Respells

/-- Settles O2: the opcode, then what the opcode map reads behind it. -/
theorem encodeOfDecode : Obligations.EncodeOfDecode := by
  unfold Obligations.EncodeOfDecode
  intro bs i rest h
  obtain ⟨op, tail, rfl, read⟩ := takeByte_inv h
  exact Respells.decodeOp op tail i rest read

end Sys2Proof

/-!
O3. The decoder reads at most six bytes and stops only when they run out, so six bytes are enough.
-/

namespace Sys2Proof

/-- A reader of at most `n` bytes answers where there are `n`. -/
theorem Reader.answers {n : Nat} {f : List Byte → DecodeResult} (r : Reader n f) :
    ∀ {bs : List Byte}, n ≤ bs.length → ∃ i rest, f bs = .ok i rest := by
  induction r with
  | ok i => exact fun {bs} _ => ⟨i, bs, rfl⟩
  | byte _ ih =>
    intro bs enough
    cases bs with
    | nil => simp at enough
    | cons b tail => exact ih b (Nat.le_of_succ_le_succ enough)

/-- What decodes is an opcode and at most five bytes after it (R153). -/
theorem decode_took {bs : List Byte} {i : Instr} {rest : List Byte} (h : decode bs = .ok i rest) :
    ∃ op used, bs = op :: (used ++ rest) ∧ used.length ≤ 5 := by
  obtain ⟨op, tail, rfl, h⟩ := takeByte_inv h
  obtain ⟨used, rfl, len, -⟩ := (Reader.decodeOp op).took h
  exact ⟨op, used, rfl, len⟩

/-- Settles O3: the decoder is a reader of at most six bytes, and the first it takes is the opcode. -/
theorem decodeTotal : Obligations.DecodeTotal := by
  unfold Obligations.DecodeTotal
  intro bs six
  obtain ⟨i, rest, h⟩ := decode_reader.answers six
  obtain ⟨op, used, rfl, len⟩ := decode_took h
  simp only [List.length_cons, List.length_append]
  exact ⟨i, rest, h, by omega, by omega⟩

end Sys2Proof

/-!
O31. The registers an EA names are added modulo 2^16 and the displacement is added to that, so the whole sum is taken modulo 2^16 once.
-/

namespace Sys2Proof.Machine

/-- Settles O31: by the form of the operand, from the sum its registers give and the segment they choose. -/
theorem effectiveAddresses : Obligations.EffectiveAddresses := by
  unfold Obligations.EffectiveAddresses
  intro s ea base stack
  have sum (b : EaBase) : (s.eaBase b).toNat = base b % 2 ^ 16 := by
    cases b with
    | bxsi | bxdi | bpsi | bpdi => exact BitVec.toNat_add _ _
    | si | di | bp | bx => exact (Nat.mod_eq_of_lt (BitVec.isLt _)).symm
  have segment (b : EaBase) : s.operandSeg (if usesBp b then .ss else .ds) = s.seg (s.pfx.seg.getD (if stack b then .ss else .ds)) := by
    cases b <;> rfl
  cases ea with
  | nodisp b => exact ⟨sum b, segment b⟩
  | disp8 b d => exact ⟨by simp [State.eaOffset, BitVec.toNat_add, sum], segment b⟩
  | disp16 b d => exact ⟨by simp [State.eaOffset, BitVec.toNat_add, sum], segment b⟩
  | direct d => exact ⟨rfl, rfl⟩

end Sys2Proof.Machine

/-!
O45. The whole effect of each of these bytes is `notePrefix`, which writes the latch alone.
-/

namespace Sys2Proof.Machine

/-- A form whose second encoding is undocumented has its meaning where the configuration admits the encoding (R410). -/
theorem documentedMain_of_admits {s : State} {v : Enc} (admitted : s.admits v) (r : Res) : documentedMain v s r = r := by
  cases v with
  | main => rfl
  | second =>
    have silicon : s.cfg.undocMode = .silicon := admitted.resolve_left nofun
    simp [documentedMain, undocumented, silicon]

/-- Settles O45: the meaning of each byte is its note in the latch; F1 has the meaning of F0 where it is admitted. -/
theorem prefixes : Obligations.Prefixes := by
  unfold Obligations.Prefixes
  intro s
  refine ⟨rfl, rfl, rfl, rfl, rfl, rfl, fun v admitted => ?_⟩
  exact documentedMain_of_admits admitted _

end Sys2Proof.Machine

/-!
O4. Words of the encoding map, each an evaluation of the decoder on closed bytes.
-/

namespace Sys2Proof

/-- Settles O4: the decoder is structural, so each word evaluates to its instruction. -/
theorem decodeWords : Obligations.DecodeWords := by
  unfold Obligations.DecodeWords
  exact ⟨rfl, rfl, rfl, rfl, rfl, rfl, rfl, rfl, rfl, rfl, rfl⟩

end Sys2Proof

/-!
What the data transfers share: a whole move to or from an operand in a register, RAM or ROM (R200), with its frame, and the frames a second destination widens.
-/

namespace Sys2Proof.Machine

/-- A form whose reg field is ignored has its meaning where the field is 0 or the configuration admits the others (R410, R417, R418). -/
theorem documentedZero_of_admitted {s : State} {reg : BitVec 3} (admitted : reg = 0#3 ∨ s.cfg.undocMode = .silicon) (r : Res) :
    documentedZero reg s r = r := by
  by_cases zero : reg = 0#3
  · simp [documentedZero, zero]
  · have silicon : s.cfg.undocMode = .silicon := admitted.resolve_left zero
    simp [documentedZero, zero, undocumented, silicon]

section
variable {s t : State} {d : Dests} (h : Frame s t d)
include h

/-- A frame still holds where one more byte register may change. -/
theorem Frame.addByte (b : Reg8) : Frame s t { d with bytes := b :: d.bytes } :=
  h.mono ⟨fun _ m => m, fun _ m => .inl (List.mem_cons_of_mem _ m), fun _ m => m, fun _ m => m, fun _ m => m⟩

/-- A frame still holds where one more word register may change. -/
theorem Frame.addWord (r : Reg16) : Frame s t { d with words := r :: d.words } :=
  h.mono ⟨fun _ m => List.mem_cons_of_mem _ m, fun _ m => .inl m, fun _ m => m, fun _ m => m, fun _ m => m⟩

/-- The shadow beside an update: what the update leaves, from the state in which the shadow is set (R462). -/
theorem Frame.setShadow : Frame { s with intr := { s.intr with shadow := true } } t.setShadow d where
  regs := ⟨h.regs.words, h.regs.bytes, h.regs.segs, h.regs.flags, h.regs.reserved, h.regs.mem⟩
  ip := h.ip
  others := congrArg State.setShadow h.others

end

section
variable {s : State} (ready : s.Ready)
include ready

/-- `write(E, v)` at width 8, for E in a register, RAM or ROM. -/
theorem State.write8_spec {l : Loc Reg8} (plain : s.plainLoc8 l) (v : Byte) :
    (s.write8 l v).valueAt8 l = s.stored8 l v ∧ Frame s (s.write8 l v) (dest8 l []) := by
  rw [State.write8_plain ready.direct plain]
  exact ⟨State.valueAt8_put8 ready.mem l v, Frame.put8 s l v []⟩

/-- `write(E, v)` at width 16, for E in a register, RAM or ROM. -/
theorem State.write16_spec {l : Loc Reg16} (plain : s.plainLoc16 l) (v : Word) :
    (s.write16 l v).valueAt16 l = s.stored16 l v ∧ Frame s (s.write16 l v) (dest16 l []) := by
  rw [State.write16_plain ready.direct plain]
  exact ⟨State.valueAt16_put16 ready.mem l v, Frame.put16 s l v []⟩

/-- `r <- read(E)` at width 8, for E in a register, RAM or ROM. -/
theorem State.load8_spec {l : Loc Reg8} (plain : s.plainLoc8 l) (r : Reg8) :
    (s.load8 r l).reg8 r = s.valueAt8 l ∧ Frame s (s.load8 r l) { bytes := [r] } := by
  simp only [State.load8, State.read8_plain ready.direct plain]
  exact ⟨by simp, Frame.setReg8 s r _ (.inl (by simp))⟩

/-- `r <- read(E)` at width 16, for E in a register, RAM or ROM. -/
theorem State.load16_spec {l : Loc Reg16} (plain : s.plainLoc16 l) (r : Reg16) :
    (s.load16 r l).reg16 r = s.valueAt16 l ∧ Frame s (s.load16 r l) { words := [r] } := by
  simp only [State.load16, State.read16_plain ready.direct plain]
  exact ⟨by simp, Frame.setReg16 s r _ (by simp)⟩

end

end Sys2Proof.Machine

/-!
O24, O25. MOV: each form is one read or one write of an operand.
-/

namespace Sys2Proof.Machine

/-- Settles O24: a form with an E destination is `write`, one with a G destination `load`, and an immediate to a register is the register's own update. -/
theorem movForms : Obligations.MovForms := by
  unfold Obligations.MovForms
  intro s ready
  refine ⟨?ebGb, ?evGv, ?gbEb, ?gvEv, ?ebIb, ?evIv, ?regIb, ?regIv, ?ewSw⟩
  case ebGb => exact fun e g plain => ⟨_, rfl, State.write8_spec ready plain _⟩
  case evGv => exact fun e g plain => ⟨_, rfl, State.write16_spec ready plain _⟩
  case gbEb => exact fun g e plain => ⟨_, rfl, State.load8_spec ready plain g⟩
  case gvEv => exact fun g e plain => ⟨_, rfl, State.load16_spec ready plain g⟩
  case ebIb => exact fun reg e imm admitted plain => ⟨_, documentedZero_of_admitted admitted _, State.write8_spec ready plain imm⟩
  case evIv => exact fun reg e imm admitted plain => ⟨_, documentedZero_of_admitted admitted _, State.write16_spec ready plain imm⟩
  case regIb => exact fun r imm => ⟨_, rfl, by simp, Frame.setReg8 s r imm (.inl (by simp))⟩
  case regIv => exact fun r imm => ⟨_, rfl, by simp, Frame.setReg16 s r imm (by simp)⟩
  case ewSw => exact fun v sr e admitted plain => ⟨_, documentedMain_of_admits admitted _, State.write16_spec ready plain _⟩

/-- The two bytes of a word after it is written, the high byte at the next offset of the segment (R13, R74). -/
theorem State.byteAt_pokeWord {s : State} (w : Memory.wf s.mem = true) (g o v : Word) :
    (s.pokeWord g o v).byteAt g o = s.storedByte g o (lowByte v) ∧
      (s.pokeWord g o v).byteAt g (o + 1) = s.storedByte g (o + 1) (highByte v) := by
  have word := State.wordAt_pokeWord w g o v
  simp only [State.wordAt, State.storedWord] at word
  exact ⟨by simpa using congrArg lowByte word, by simpa using congrArg highByte word⟩

/-- Settles O25: the accumulator is loaded from, or written to, the memory operand the offset names. -/
theorem movOffsetForms : Obligations.MovOffsetForms := by
  unfold Obligations.MovOffsetForms
  intro s off ready g
  refine ⟨?alOb, ?axOv, ?obAl, ?ovAx⟩
  case alOb => exact fun plain => ⟨_, rfl, State.load8_spec (l := .mem g off) ready plain .al⟩
  case axOv => exact fun plain => ⟨_, rfl, State.load16_spec (l := .mem g off) ready plain .ax⟩
  case obAl => exact fun plain => ⟨_, rfl, State.write8_spec (l := .mem g off) ready plain (s.reg8 .al)⟩
  case ovAx =>
    intro plain
    have written : s.wrW g off (s.reg16 .ax) = s.pokeWord g off (s.reg16 .ax) := State.wrW_plain ready.direct plain _
    obtain ⟨low, high⟩ := State.byteAt_pokeWord ready.mem g off (s.reg16 .ax)
    refine ⟨_, congrArg Host.Outcome.next written, low, high, Frame.pokeWord s g off _ fun _ m => m⟩

end Sys2Proof.Machine

/-!
O26. Loads of ES, SS and DS. MOV and POP set the shadow after the load, so their frame starts from the state with the shadow set (R462).
-/

namespace Sys2Proof.Machine

/-- MOV to a segment register other than CS is `movSeg` in both encodings (R205, R416). -/
theorem exec_movSwEw {sr : SReg} (data : sr ≠ .cs) (v : Enc) (e : Rm16) (s : State) :
    exec (.movSwEw v sr e) s = documentedMain v s (.next (s.movSeg sr e)) := by
  cases sr with
  | cs => exact absurd rfl data
  | es | ss | ds => rfl

/-- POP of a segment register other than CS is `popSeg` (R210). -/
theorem exec_popSreg {sr : SReg} (data : sr ≠ .cs) (s : State) : exec (.popSreg sr) s = .next (s.popSeg sr) := by
  cases sr with
  | cs => exact absurd rfl data
  | es | ss | ds => rfl

section
variable {s : State} (direct : s.Direct)
include direct

theorem State.movSeg_plain {e : Rm16} (plain : s.plainLoc16 (s.locate e)) (sr : SReg) :
    s.movSeg sr e = (s.setSeg sr (s.valueAt16 (s.locate e))).setShadow := by
  simp only [State.movSeg, State.read16_plain direct plain]

theorem State.popSeg_plain (plain : s.popPlain) (sr : SReg) :
    s.popSeg sr = ((s.setReg16 .sp (s.reg16 .sp + 2)).setSeg sr s.top).setShadow := by
  simp only [State.popSeg, State.pop_spec direct plain]

/-- LDS and LES: the register and the segment register take the two words of the pointer, and the shadow is not set (R220, R221). -/
theorem State.loadFar_spec {ea : Ea} (offset : s.plainWordAt (s.operandSeg (defaultSeg ea)) (s.eaOffset ea))
    (segment : s.plainWordAt (s.operandSeg (defaultSeg ea)) (s.eaOffset ea + 2)) (sr : SReg) (g : Reg16) :
    (s.loadFar sr g ea).reg16 g = s.wordAt (s.operandSeg (defaultSeg ea)) (s.eaOffset ea) ∧
      (s.loadFar sr g ea).seg sr = s.wordAt (s.operandSeg (defaultSeg ea)) (s.eaOffset ea + 2) ∧
      Frame s (s.loadFar sr g ea) { words := [g], segs := [sr] } := by
  simp only [State.loadFar, State.rdFar_plain direct offset segment]
  exact ⟨by simp, by simp, (Frame.setReg16 s g _ (by simp)).andThen (Frame.setSeg _ sr _ (by simp))⟩

end

/-- Settles O26: MOV and POP write the segment register and then the shadow; LDS and LES read both words before either register is written. -/
theorem segmentLoads : Obligations.SegmentLoads := by
  unfold Obligations.SegmentLoads
  intro s ready
  refine ⟨fun v sr e data admitted plain => ?mov, fun sr data plain => ?pop, fun g ea => ?far⟩
  case mov =>
    refine ⟨s.movSeg sr e, by rw [exec_movSwEw data, documentedMain_of_admits admitted], ?_⟩
    rw [State.movSeg_plain ready.direct plain]
    exact ⟨by simp, (Frame.setSeg s sr _ (by simp)).setShadow⟩
  case pop =>
    refine ⟨s.popSeg sr, exec_popSreg data s, ?_⟩
    rw [State.popSeg_plain ready.direct plain]
    exact ⟨by simp, by simp, ((Frame.setReg16 s .sp _ (by simp)).andThen (Frame.setSeg _ sr _ (by simp))).setShadow⟩
  case far =>
    intro sg o offset segment
    exact ⟨⟨_, rfl, State.loadFar_spec ready.direct offset segment .ds g⟩, ⟨_, rfl, State.loadFar_spec ready.direct offset segment .es g⟩⟩

end Sys2Proof.Machine

/-!
O27, O28. The stack transfers: each is a push of a value, or a pop and then the write of the word read.
-/

namespace Sys2Proof.Machine

/-- PUSH of a word register other than SP stores the register (R206). -/
theorem exec_pushReg {r : Reg16} (other : r ≠ .sp) (s : State) : exec (.pushReg r) s = .next (s.push (s.reg16 r)) := by
  cases r with
  | sp => exact absurd rfl other
  | ax | cx | dx | bx | bp | si | di => rfl

/-- Any Ev operand but SP itself is pushed as it is read (R208). -/
theorem State.pushValue_other {e : Rm16} (other : e ≠ .reg .sp) (s : State) (v : Word) : s.pushValue e v = (v, s) := by
  cases e with
  | mem ea => rfl
  | reg r =>
    cases r with
    | sp => exact absurd rfl other
    | ax | cx | dx | bx | bp | si | di => rfl

/-- A push after a free bit is drawn is a push: the count of free values is no part of its effect. -/
theorem Pushed.ofDrawBit {s t : State} {v : Word} (h : Pushed s.drawBit.2 t v) : Pushed s t v :=
  ⟨h.sp, h.word, (Frame.drawBit s _).andThen h.frame⟩

section
variable {s : State} (ready : s.Ready) (room : s.pushPlain)
include ready room

theorem State.pushOperand_other {e : Rm16} (plain : s.plainLoc16 (s.locate e)) (other : e ≠ .reg .sp) :
    Pushed s (s.pushOperand e) (s.valueAt16 (s.locate e)) := by
  simp only [State.pushOperand, State.read16_plain ready.direct plain, State.pushValue_other other]
  exact State.push_spec ready.direct ready.mem room _

/-- PUSH SP as an Ev operand stores the old or the decremented SP, as the free bit says (R208; log 10). -/
theorem State.pushOperand_sp : Pushed s (s.pushOperand (.reg .sp)) (s.reg16 .sp) ∨ Pushed s (s.pushOperand (.reg .sp)) (s.reg16 .sp - 2) := by
  have pushed (v : Word) : Pushed s (s.drawBit.2.push v) v := .ofDrawBit (State.push_spec (s := s.drawBit.2) ready.direct ready.mem room v)
  have stored : s.pushOperand (.reg .sp) = s.drawBit.2.push (if s.drawBit.1 then s.reg16 .sp else s.reg16 .sp - 2) := rfl
  rw [stored]
  cases s.drawBit.1 with
  | true => exact .inl (pushed _)
  | false => exact .inr (pushed _)

end

/-- Settles O27: each form is a push of the value it names; only SP as an Ev operand has a free choice. -/
theorem pushForms : Obligations.PushForms := by
  unfold Obligations.PushForms
  refine ⟨fun s ready room => ?fixed, fun s v e ready room admitted plain => ?ev⟩
  case fixed =>
    have pushed := State.push_spec ready.direct ready.mem room
    exact ⟨fun r other => ⟨_, exec_pushReg other s, pushed _⟩, ⟨_, rfl, pushed _⟩, fun sr => ⟨_, rfl, pushed _⟩, ⟨_, rfl, pushed _⟩⟩
  case ev =>
    refine ⟨_, documentedMain_of_admits admitted _, State.pushOperand_other ready room plain, ?_⟩
    rintro rfl
    exact State.pushOperand_sp ready room

/-- Where an operand is does not depend on the registers once it is located. -/
theorem State.plainLoc16_setReg16 {s : State} {l : Loc Reg16} (plain : s.plainLoc16 l) (r : Reg16) (v : Word) : (s.setReg16 r v).plainLoc16 l := by
  cases l with
  | reg q => trivial
  | mem g o => exact plain

theorem State.stored16_setReg16 (s : State) (l : Loc Reg16) (r : Reg16) (x v : Word) : (s.setReg16 r x).stored16 l v = s.stored16 l v := by
  cases l <;> rfl

theorem State.Ready.setReg16 {s : State} (ready : s.Ready) (r : Reg16) (v : Word) : (s.setReg16 r v).Ready := ⟨ready.direct, ready.mem, ready.flags⟩

/-- A write to a word operand leaves every word register alone but the operand itself. -/
theorem Frame.reg16_dest16 {s t : State} {l : Loc Reg16} {fs : List Flag} (h : Frame s t (dest16 l fs)) {r : Reg16} (other : l ≠ .reg r) :
    t.reg16 r = s.reg16 r := by
  cases l with
  | mem g o => exact h.regs.words r (by simp [dest16]) (by simp [dest16])
  | reg q =>
    have ne : r ≠ q := fun e => other (by rw [e])
    exact h.regs.words r (by simp [dest16, ne]) (by simp [dest16])

/-- Only the register operand itself is located at a register. -/
theorem State.locate_ne_reg {s : State} {e : Rm16} {r : Reg16} (other : e ≠ .reg r) : s.locate e ≠ .reg r := by
  cases e with
  | mem ea => nofun
  | reg q => exact fun same => other (by rw [Loc.reg.inj same])

section
variable {s : State} (ready : s.Ready) (plain : s.popPlain)
include ready plain

/-- `r <- Pop()` (R209). -/
theorem State.popReg16_spec (r : Reg16) : (s.popReg16 r).reg16 r = s.top ∧ (r ≠ .sp → (s.popReg16 r).reg16 .sp = s.reg16 .sp + 2) ∧
    Frame s (s.popReg16 r) { words := [r, .sp] } := by
  simp only [State.popReg16, State.pop_spec ready.direct plain]
  exact ⟨by simp, fun other => by simp [other.symm], (Frame.setReg16 s .sp _ (by simp)).andThen (Frame.setReg16 _ r _ (by simp))⟩

/-- POP E: the operand is located before the pop and written after it (R211). -/
theorem State.popOperand_spec {e : Rm16} (operand : s.plainLoc16 (s.locate e)) :
    (s.popOperand e).valueAt16 (s.locate e) = s.stored16 (s.locate e) s.top ∧ (e ≠ .reg .sp → (s.popOperand e).reg16 .sp = s.reg16 .sp + 2) ∧
      Frame s (s.popOperand e) { dest16 (s.locate e) [] with words := .sp :: (dest16 (s.locate e) []).words } := by
  have popped : s.popOperand e = (s.setReg16 .sp (s.reg16 .sp + 2)).write16 (s.locate e) s.top := by
    rw [State.popOperand, State.pop_spec ready.direct plain]
  obtain ⟨value, frame⟩ := State.write16_spec (ready.setReg16 .sp (s.reg16 .sp + 2)) (State.plainLoc16_setReg16 operand _ _) s.top
  rw [popped]
  refine ⟨value.trans (s.stored16_setReg16 _ _ _ _), fun other => ?_, (Frame.setReg16 s .sp _ (by simp)).andThen (frame.addWord .sp)⟩
  rw [frame.reg16_dest16 (State.locate_ne_reg other)]
  simp

end

/-- FLAGS as a whole is written with its hardwired bits, so nothing but the nine live flags can change (R27). -/
theorem Frame.setFlags {s : State} (image : flagsImage s.flags = s.flags) (v : Word) {d : Dests} (all : ∀ f, f ∈ d.flags) : Frame s (s.setFlags v) d where
  regs := {
    words := fun _ _ _ => rfl
    bytes := fun _ _ _ => rfl
    segs := fun _ _ => rfl
    flags := fun f n => absurd (all f) n
    reserved := fun n reserved => by
      rw [← image]
      exact (flagsImage_reserved v reserved).trans (flagsImage_reserved s.flags reserved).symm
    mem := fun _ _ => rfl }
  ip := rfl
  others := rfl

/-- Settles O28: a pop, then the write of the word read; POPF writes it through the hardwired view. -/
theorem popForms : Obligations.PopForms := by
  unfold Obligations.PopForms
  intro s ready plain
  refine ⟨fun r => ⟨_, rfl, State.popReg16_spec ready plain r⟩, fun reg e admitted operand => ?ev, ?popf⟩
  case ev => exact ⟨_, documentedZero_of_admitted admitted _, State.popOperand_spec ready plain operand⟩
  case popf =>
    refine ⟨s.pop.2.setFlags s.pop.1, rfl, ?_⟩
    rw [State.pop_spec ready.direct plain]
    refine ⟨rfl, State.flag_setFlags _ _, by simp, ?_⟩
    have all (f : Flag) : f ∈ [Flag.cf, .pf, .af, .zf, .sf, .tf, .intf, .df, .ovf] := by cases f <;> decide
    exact (Frame.setReg16 s .sp _ (by simp)).andThen (Frame.setFlags (ready.setReg16 .sp _).flags _ all)

end Sys2Proof.Machine

/-!
O29. An exchange is a read of E, a write of E and then a write of G, in this order (R212).
-/

namespace Sys2Proof.Machine

/-- What a byte operand holds after a byte register is written: another operand's value is left alone. -/
theorem State.valueAt8_setReg8 (s : State) (l : Loc Reg8) (g : Reg8) (v : Byte) :
    (s.setReg8 g v).valueAt8 l = if l = .reg g then v else s.valueAt8 l := by
  cases l with
  | reg r => simp [State.valueAt8]
  | mem sg o => rfl

/-- What a word operand holds after a word register is written. -/
theorem State.valueAt16_setReg16 (s : State) (l : Loc Reg16) (g : Reg16) (v : Word) :
    (s.setReg16 g v).valueAt16 l = if l = .reg g then v else s.valueAt16 l := by
  cases l with
  | reg r => simp [State.valueAt16]
  | mem sg o => rfl

section
variable {s : State} (ready : s.Ready)
include ready

/-- XCHG at width 8. Where E is G itself the second write gives G its own value back (R212). -/
theorem State.exchange8_spec {e : Rm8} (plain : s.plainLoc8 (s.locate e)) (g : Reg8) :
    (s.exchange8 e g).reg8 g = s.valueAt8 (s.locate e) ∧ (s.exchange8 e g).valueAt8 (s.locate e) = s.stored8 (s.locate e) (s.reg8 g) ∧
      Frame s (s.exchange8 e g) { dest8 (s.locate e) [] with bytes := g :: (dest8 (s.locate e) []).bytes } := by
  obtain ⟨value, frame⟩ := State.write8_spec ready plain (s.reg8 g)
  simp only [State.exchange8, State.read8_plain ready.direct plain]
  refine ⟨by simp, ?_, (frame.addByte g).andThen (Frame.setReg8 _ g _ (.inl (by simp)))⟩
  rw [State.valueAt8_setReg8]
  split_ifs with same
  · rw [same]; rfl
  · exact value

/-- XCHG at width 16 (R212). -/
theorem State.exchange16_spec {e : Rm16} (plain : s.plainLoc16 (s.locate e)) (g : Reg16) :
    (s.exchange16 e g).reg16 g = s.valueAt16 (s.locate e) ∧ (s.exchange16 e g).valueAt16 (s.locate e) = s.stored16 (s.locate e) (s.reg16 g) ∧
      Frame s (s.exchange16 e g) { dest16 (s.locate e) [] with words := g :: (dest16 (s.locate e) []).words } := by
  obtain ⟨value, frame⟩ := State.write16_spec ready plain (s.reg16 g)
  simp only [State.exchange16, State.read16_plain ready.direct plain]
  refine ⟨by simp, ?_, (frame.addWord g).andThen (Frame.setReg16 _ g _ (by simp))⟩
  rw [State.valueAt16_setReg16]
  split_ifs with same
  · rw [same]; rfl
  · exact value

end

/-- Settles O29: the E forms by the exchange at each width; with AX the two registers take each other's value. -/
theorem exchanges : Obligations.Exchanges := by
  unfold Obligations.Exchanges
  intro s ready
  refine ⟨fun e g plain => ⟨_, rfl, State.exchange8_spec ready plain g⟩, fun e g plain => ⟨_, rfl, State.exchange16_spec ready plain g⟩, fun r => ?ax, rfl⟩
  case ax =>
    refine ⟨_, rfl, ?_, by simp, (Frame.setReg16 s .ax _ (by simp)).andThen (Frame.setReg16 _ r _ (by simp))⟩
    rw [State.reg16_setReg16]
    split_ifs with same
    · rw [← same]
    · simp

end Sys2Proof.Machine

/-!
O30. XLAT and LEA, and the low byte of FLAGS as LAHF and SAHF move it.
-/

namespace Sys2Proof.Machine

theorem getLsbD_lowByte (w : Word) {n : Nat} (low : n < 8) : (lowByte w).getLsbD n = w.getLsbD n := by
  simp [lowByte, low]

/-- A flag of the low byte of FLAGS is the bit of that byte which SAHF names (R223). -/
theorem State.flag_setLowFlags (s : State) (v : Byte) {f : Flag} (low : f.bit < 8) : (s.setLowFlags v).flag f = v.getLsbD f.bit := by
  cases f with
  | cf | pf | af | zf | sf => simp [State.setLowFlags, Flag.bit]
  | tf | intf | df | ovf => simp [Flag.bit] at low

/-- SAHF changes the five flags of the low byte and nothing else (R223). -/
theorem Frame.setLowFlags (s : State) (v : Byte) : Frame s (s.setLowFlags v) { flags := [.sf, .zf, .af, .pf, .cf] } :=
  ((((Frame.setFlag s .sf _ (by simp)).andThen (Frame.setFlag _ .zf _ (by simp))).andThen (Frame.setFlag _ .af _ (by simp))).andThen
    (Frame.setFlag _ .pf _ (by simp))).andThen (Frame.setFlag _ .cf _ (by simp))

/-- Settles O30: XLAT is a load, LEA a write of the offset alone; LAHF reads FLAGS through its hardwired view. -/
theorem loadsAndFlagBytes : Obligations.LoadsAndFlagBytes := by
  unfold Obligations.LoadsAndFlagBytes
  intro s ready
  refine ⟨?xlat, ?lea, ?lahf, ?sahf⟩
  case xlat => exact fun plain => ⟨_, rfl, State.load8_spec (l := .mem _ _) ready plain .al⟩
  case lea => exact fun g ea => ⟨_, rfl, by simp, Frame.setReg16 s g _ (by simp)⟩
  case lahf =>
    refine ⟨s.setReg8 .ah (lowByte s.flagsWord), rfl, ?_⟩
    have bit {n : Nat} (low : n < 8) : ((s.setReg8 .ah (lowByte s.flagsWord)).reg8 .ah).getLsbD n = (flagsImage s.flags).getLsbD n := by
      rw [State.reg8_setReg8, if_pos rfl, getLsbD_lowByte _ low]
      rfl
    refine ⟨fun f low => ?_, ?_, ?_, ?_, Frame.setReg8 s .ah _ (.inl (by simp))⟩
    · exact (bit low).trans (flagsImage_flag s.flags f)
    all_goals
      rw [bit (by decide), getLsbD_flagsImage]
      simp
  case sahf => exact ⟨_, rfl, fun f low => s.flag_setLowFlags _ low, Frame.setLowFlags s _⟩

end Sys2Proof.Machine

/-!
O32. One access of a port at the instruction level appends its event to the record; a read may also count a byte a device delivered (R83, R84).
-/

namespace Sys2Proof.Machine

/-- An update of the record of accesses and of the count of delivered bytes is inside an I/O frame. -/
theorem IoFrame.ofRecord (s : State) (e : List BusEvent) (m : Nat) (d : Dests) : IoFrame s { s with busDraws := m, events := e } d :=
  ⟨RegFrame.ofEq d rfl rfl rfl rfl, rfl, rfl⟩

/-- What is written to a register after the accesses of a port. -/
theorem IoFrame.andThen {s t u : State} {d : Dests} (h : IoFrame s t d) (k : Frame t u d) : IoFrame s u d where
  regs := h.regs.andThen k.regs
  ip := k.ip.trans h.ip
  others := (congrArg (fun x : State => { x with events := [], busDraws := 0 }) k.others).trans h.others

section
variable {s : State} (direct : s.Direct)
include direct

/-- One byte read from a port: the value is free or, where nothing answers, the open-bus one; it is recorded, and nothing else changes but the count of
delivered bytes (R83, R84). -/
theorem State.ioRdB_recorded (p : Word) :
    ∃ v m, s.ioRdB p = (v, { s with busDraws := m, events := s.events ++ [s.portEvent .read p v] }) ∧ s.openPort p v := by
  have replay : s.port.replay = false := direct
  obtain ⟨v, m, read⟩ := s.readValue_eq false .io (portAddr p)
  refine ⟨v, m, ?_, fun unserved b const => ?_⟩
  · simp [State.ioRdB, State.busRead, replay, State.directRead, read, State.record_eq, Params.isEvent, State.portEvent]
  · simp only [State.readValue, unserved, State.openBusByte, const] at read
    exact (congrArg Prod.fst read).symm

/-- One byte written to a port is recorded, and nothing else changes (R83, R84). -/
theorem State.ioWrB_recorded (p : Word) (v : Byte) : s.ioWrB p v = { s with events := s.events ++ [s.portEvent .write p v] } := by
  have replay : s.port.replay = false := direct
  simp [State.ioWrB, State.busWrite, replay, State.directWrite, State.storeValue, State.record_eq, Params.isEvent, State.portEvent]

/-- A word read from a port is two bytes, the low one first, the high one at the next port (R216). -/
theorem State.ioRdW_recorded (p : Word) :
    ∃ lo hi m, s.ioRdW p =
        (hi ++ lo, { s with busDraws := m, events := s.events ++ [s.portEvent .read p lo, s.portEvent .read (p + 1) hi] }) ∧
      s.openPort p lo ∧ s.openPort (p + 1) hi := by
  obtain ⟨lo, k, low, lowOpen⟩ := State.ioRdB_recorded direct p
  obtain ⟨hi, m, high, highOpen⟩ :=
    State.ioRdB_recorded (s := { s with busDraws := k, events := s.events ++ [s.portEvent .read p lo] }) direct (p + 1)
  refine ⟨lo, hi, m, ?_, lowOpen, highOpen⟩
  simp only [State.ioRdW, low, high, List.append_assoc]
  rfl

/-- A word written to a port is two bytes, the low one first, the high one at the next port (R218). -/
theorem State.ioWrW_recorded (p v : Word) :
    s.ioWrW p v = { s with events := s.events ++ [s.portEvent .write p (lowByte v), s.portEvent .write (p + 1) (highByte v)] } := by
  have high := State.ioWrB_recorded (s := { s with events := s.events ++ [s.portEvent .write p (lowByte v)] }) direct (p + 1) (highByte v)
  simp only [State.ioWrW, State.ioWrB_recorded direct p, high, List.append_assoc]
  rfl

/-- IN AL from port `p` (R215, R216). -/
theorem State.inputByte_spec (p : Word) :
    ∃ v, (s.inputByte p).reg8 .al = v ∧ (s.inputByte p).events = s.events ++ [s.portEvent .read p v] ∧ s.openPort p v ∧
      IoFrame s (s.inputByte p) { bytes := [.al] } := by
  obtain ⟨v, m, read, unserved⟩ := State.ioRdB_recorded direct p
  simp only [State.inputByte, read]
  exact ⟨v, by simp, rfl, unserved, (IoFrame.ofRecord s _ m _).andThen (Frame.setReg8 _ .al v (.inl (by simp)))⟩

/-- IN AX from ports `p` and `p + 1` (R215, R216). -/
theorem State.inputWord_spec (p : Word) :
    ∃ lo hi, (s.inputWord p).reg16 .ax = hi ++ lo ∧
      (s.inputWord p).events = s.events ++ [s.portEvent .read p lo, s.portEvent .read (p + 1) hi] ∧ s.openPort p lo ∧ s.openPort (p + 1) hi ∧
      IoFrame s (s.inputWord p) { words := [.ax] } := by
  obtain ⟨lo, hi, m, read, lowOpen, highOpen⟩ := State.ioRdW_recorded direct p
  simp only [State.inputWord, read]
  exact ⟨lo, hi, by simp, rfl, lowOpen, highOpen, (IoFrame.ofRecord s _ m _).andThen (Frame.setReg16 _ .ax _ (by simp))⟩

/-- OUT of AL to port `p` (R217, R218). -/
theorem State.outputByte_spec (p : Word) (v : Byte) :
    (s.ioWrB p v).events = s.events ++ [s.portEvent .write p v] ∧ IoFrame s (s.ioWrB p v) {} := by
  rw [State.ioWrB_recorded direct]
  exact ⟨rfl, IoFrame.ofRecord s _ s.busDraws _⟩

/-- OUT of AX to ports `p` and `p + 1` (R217, R218). -/
theorem State.outputWord_spec (p v : Word) :
    (s.ioWrW p v).events = s.events ++ [s.portEvent .write p (lowByte v), s.portEvent .write (p + 1) (highByte v)] ∧ IoFrame s (s.ioWrW p v) {} := by
  rw [State.ioWrW_recorded direct]
  exact ⟨rfl, IoFrame.ofRecord s _ s.busDraws _⟩

end

/-- Settles O32: the immediate and the DX form of each are the same access, at the port they name. -/
theorem portForms : Obligations.PortForms := by
  unfold Obligations.PortForms
  intro s direct
  refine ⟨fun i p form => ?inByte, fun i p form => ?inWord, fun i p form => ?outByte, fun i p form => ?outWord⟩
  case inByte =>
    obtain ⟨v, spec⟩ := State.inputByte_spec direct p
    rcases form with ⟨b, rfl, rfl⟩ | ⟨rfl, rfl⟩ <;> exact ⟨_, v, rfl, spec⟩
  case inWord =>
    obtain ⟨lo, hi, spec⟩ := State.inputWord_spec direct p
    rcases form with ⟨b, rfl, rfl⟩ | ⟨rfl, rfl⟩ <;> exact ⟨_, lo, hi, rfl, spec⟩
  case outByte =>
    have spec := State.outputByte_spec direct p (s.reg8 .al)
    rcases form with ⟨b, rfl, rfl⟩ | ⟨rfl, rfl⟩ <;> exact ⟨_, rfl, spec⟩
  case outWord =>
    have spec := State.outputWord_spec direct p (s.reg16 .ax)
    rcases form with ⟨b, rfl, rfl⟩ | ⟨rfl, rfl⟩ <;> exact ⟨_, rfl, spec⟩

end Sys2Proof.Machine

/-!
What the arithmetic and logic instructions share (R248): an operation that changes flags only, and then the write of its result, if it has one, to an operand.
-/

namespace Sys2Proof.Machine

/-! What a claim says of flags it says of any state with the same flags; SF, ZF, PF, AF and OF are described without CF. -/

section
variable {w : Nat} {t u : State} (same : ∀ f, f ≠ .cf → t.flag f = u.flag f)
include same

theorem ResultFlags.congr {r : BitVec w} (h : ResultFlags u r) : ResultFlags t r :=
  ⟨(same .sf (by decide)).trans h.sf, (same .zf (by decide)).trans h.zf, (same .pf (by decide)).trans h.pf⟩

theorem SumAux.congr {a b : BitVec w} {c : Bool} (h : SumAux u a b c) : SumAux t a b c :=
  ⟨(same .af (by decide)).trans h.af, (same .ovf (by decide)).trans h.ovf⟩

theorem DiffAux.congr {a b : BitVec w} {c : Bool} (h : DiffAux u a b c) : DiffAux t a b c :=
  ⟨(same .af (by decide)).trans h.af, (same .ovf (by decide)).trans h.ovf⟩

end

section
variable {w : Nat} {t u : State} (same : ∀ f, t.flag f = u.flag f)
include same

theorem SumFlags.congr {a b : BitVec w} {c : Bool} (h : SumFlags u a b c) : SumFlags t a b c :=
  ⟨h.toSumAux.congr fun f _ => same f, (same .cf).trans h.cf⟩

theorem DiffFlags.congr {a b : BitVec w} {c : Bool} (h : DiffFlags u a b c) : DiffFlags t a b c :=
  ⟨h.toDiffAux.congr fun f _ => same f, (same .cf).trans h.cf⟩

theorem LogicFlags.congr {r : BitVec w} (h : LogicFlags u r) : LogicFlags t r :=
  ⟨(same .cf).trans h.cf, (same .ovf).trans h.ovf, h.result.congr fun f _ => same f⟩

theorem AluOp.Flags.congr {op : AluOp} {d v : BitVec w} {c : Bool} (h : op.Flags u d v c) : op.Flags t d v c := by
  cases op with
  | add | adc => exact ⟨SumFlags.congr same h.1, ResultFlags.congr (fun f _ => same f) h.2⟩
  | sub | sbb | cmp => exact ⟨DiffFlags.congr same h.1, ResultFlags.congr (fun f _ => same f) h.2⟩
  | and | or | xor => exact LogicFlags.congr same h

end

/-- `u` is `s` but for some of the flags `fs` and the count of free values. -/
structure ChangesFlags (s u : State) (fs : List Flag) : Prop where
  only : FlagsOnly s u
  frame : Frame s u { flags := fs }

theorem ChangesFlags.none (s : State) : ChangesFlags s s [] := ⟨.refl s, .refl s _⟩

theorem ChangesFlags.addFlags {w : Nat} (s : State) (a b : BitVec w) (c : Bool) : ChangesFlags s (s.addFlags a b c).2 statusFlags :=
  ⟨.addFlags s a b c, .addFlags s a b c fun _ m => m⟩

theorem ChangesFlags.subFlags {w : Nat} (s : State) (a b : BitVec w) (c : Bool) : ChangesFlags s (s.subFlags a b c).2 statusFlags :=
  ⟨.subFlags s a b c, .subFlags s a b c fun _ m => m⟩

theorem ChangesFlags.logicFlags {w : Nat} (s : State) (r : BitVec w) : ChangesFlags s (s.logicFlags r) statusFlags :=
  ⟨.logicFlags s r, .logicFlags s r fun _ m => m⟩

/-- What may change where the result `r`, if there is one, is written to a byte operand. -/
def destOf8 {α : Type} (l : Loc Reg8) (fs : List Flag) (r : Option α) : Dests :=
  match r with
  | some _ => dest8 l fs
  | none => { flags := fs }

/-- What may change where the result `r`, if there is one, is written to a word operand. -/
def destOf16 {α : Type} (l : Loc Reg16) (fs : List Flag) (r : Option α) : Dests :=
  match r with
  | some _ => dest16 l fs
  | none => { flags := fs }

/-- Writing an operand's own value to it changes nothing there. -/
theorem State.stored8_valueAt8 (s : State) (l : Loc Reg8) : s.stored8 l (s.valueAt8 l) = s.valueAt8 l := by
  cases l with
  | reg r => rfl
  | mem g o =>
    simp only [State.stored8, State.valueAt8, State.storedByte]
    split <;> rfl

theorem State.stored16_valueAt16 (s : State) (l : Loc Reg16) : s.stored16 l (s.valueAt16 l) = s.valueAt16 l := by
  cases l with
  | reg r => rfl
  | mem g o =>
    have byte (o : Word) : s.storedByte g o (s.byteAt g o) = s.byteAt g o := s.stored8_valueAt8 (.mem g o)
    simp [State.stored16, State.valueAt16, State.storedWord, State.wordAt, byte]

section
variable {s u : State} {fs : List Flag} (wf : Memory.wf s.mem = true) (changed : ChangesFlags s u fs)
include wf changed

/-- A byte result written after the flags: the operand holds it, or what it held where there is none; the write changes no flag. -/
theorem ChangesFlags.put8?_spec (l : Loc Reg8) (r : Option Byte) :
    (u.put8? l r).valueAt8 l = s.stored8 l (r.getD (s.valueAt8 l)) ∧ (∀ f, (u.put8? l r).flag f = u.flag f) ∧ Frame s (u.put8? l r) (destOf8 l fs r) := by
  obtain ⟨only, frame⟩ := changed
  cases r with
  | none => exact ⟨(only.valueAt8 l).trans (s.stored8_valueAt8 l).symm, fun _ => rfl, frame⟩
  | some v =>
    refine ⟨?_, u.put8_flag l v, (frame.mono ?_).andThen (Frame.put8 u l v fs)⟩
    · exact (State.valueAt8_put8 (only.mem ▸ wf) l v).trans (only.stored8 l v)
    · cases l <;> exact ⟨by simp, by simp, by simp, fun _ m => m, by simp⟩

/-- A word result written after the flags. -/
theorem ChangesFlags.put16?_spec (l : Loc Reg16) (r : Option Word) :
    (u.put16? l r).valueAt16 l = s.stored16 l (r.getD (s.valueAt16 l)) ∧ (∀ f, (u.put16? l r).flag f = u.flag f) ∧
      Frame s (u.put16? l r) (destOf16 l fs r) := by
  obtain ⟨only, frame⟩ := changed
  cases r with
  | none => exact ⟨(only.valueAt16 l).trans (s.stored16_valueAt16 l).symm, fun _ => rfl, frame⟩
  | some v =>
    refine ⟨?_, u.put16_flag l v, (frame.mono ?_).andThen (Frame.put16 u l v fs)⟩
    · exact (State.valueAt16_put16 (only.mem ▸ wf) l v).trans (only.stored16 l v)
    · cases l <;> exact ⟨by simp, by simp, by simp, fun _ m => m, by simp⟩

end

section
variable {s : State} (ready : s.Ready)
include ready

/-- `op E` at width 8, from what the operation gives for the operand's value. -/
theorem State.unary8_spec {e : Rm8} (plain : s.plainLoc8 (s.locate e)) {f : Op1 8} {r : Option Byte} {u : State} {fs : List Flag}
    (op : f (s.valueAt8 (s.locate e)) s = (r, u)) (changed : ChangesFlags s u fs) :
    (s.unary8 f e).valueAt8 (s.locate e) = s.stored8 (s.locate e) (r.getD (s.valueAt8 (s.locate e))) ∧
      (∀ g, (s.unary8 f e).flag g = u.flag g) ∧ Frame s (s.unary8 f e) (destOf8 (s.locate e) fs r) := by
  rw [State.unary8_plain ready.direct f plain (by rw [op]; exact changed.only), op]
  exact changed.put8?_spec ready.mem (s.locate e) r

/-- `op E` at width 16. -/
theorem State.unary16_spec {e : Rm16} (plain : s.plainLoc16 (s.locate e)) {f : Op1 16} {r : Option Word} {u : State} {fs : List Flag}
    (op : f (s.valueAt16 (s.locate e)) s = (r, u)) (changed : ChangesFlags s u fs) :
    (s.unary16 f e).valueAt16 (s.locate e) = s.stored16 (s.locate e) (r.getD (s.valueAt16 (s.locate e))) ∧
      (∀ g, (s.unary16 f e).flag g = u.flag g) ∧ Frame s (s.unary16 f e) (destOf16 (s.locate e) fs r) := by
  rw [State.unary16_plain ready.direct f plain (by rw [op]; exact changed.only), op]
  exact changed.put16?_spec ready.mem (s.locate e) r

/-- `op r, E` at width 8. -/
theorem State.toReg8_spec (g : Reg8) {e : Rm8} (plain : s.plainLoc8 (s.locate e)) {f : Op2 8} {r : Option Byte} {u : State} {fs : List Flag}
    (op : f (s.reg8 g) (s.valueAt8 (s.locate e)) s = (r, u)) (changed : ChangesFlags s u fs) :
    (s.toReg8 f g e).valueAt8 (.reg g) = s.stored8 (.reg g) (r.getD (s.reg8 g)) ∧ (∀ h, (s.toReg8 f g e).flag h = u.flag h) ∧
      Frame s (s.toReg8 f g e) (destOf8 (.reg g) fs r) := by
  rw [State.toReg8_plain ready.direct f g plain, op]
  exact changed.put8?_spec ready.mem (.reg g) r

/-- `op r, E` at width 16. -/
theorem State.toReg16_spec (g : Reg16) {e : Rm16} (plain : s.plainLoc16 (s.locate e)) {f : Op2 16} {r : Option Word} {u : State} {fs : List Flag}
    (op : f (s.reg16 g) (s.valueAt16 (s.locate e)) s = (r, u)) (changed : ChangesFlags s u fs) :
    (s.toReg16 f g e).valueAt16 (.reg g) = s.stored16 (.reg g) (r.getD (s.reg16 g)) ∧ (∀ h, (s.toReg16 f g e).flag h = u.flag h) ∧
      Frame s (s.toReg16 f g e) (destOf16 (.reg g) fs r) := by
  rw [State.toReg16_plain ready.direct f g plain, op]
  exact changed.put16?_spec ready.mem (.reg g) r

end

end Sys2Proof.Machine

/-!
O12, O13. The eight two-operand operations of R248: what each one's operation gives, and then its nine forms at once.
-/

namespace Sys2Proof.Machine

/-- The operation on destination and source (R253-R257, R301-R303). -/
def AluOp.run {w : Nat} (op : AluOp) : Op2 w :=
  match op with
  | .add => aluAdd
  | .or => aluOr
  | .adc => aluAdc
  | .sbb => aluSbb
  | .and => aluAnd
  | .sub => aluSub
  | .xor => aluXor
  | .cmp => aluCmp

/-- What is written: CMP has no result to write (R257). -/
def AluOp.written {w : Nat} (op : AluOp) (d v : BitVec w) (c : Bool) : Option (BitVec w) :=
  match op with
  | .cmp => none
  | .add | .or | .adc | .sbb | .and | .sub | .xor => some (op.result d v c)

theorem carryIn_false (w : Nat) : carryIn w false = 0#w := rfl

theorem AluOp.run_fst {w : Nat} (op : AluOp) (d v : BitVec w) (s : State) : (op.run d v s).1 = op.written d v (s.flag .cf) := by
  cases op with
  | add => exact congrArg some ((s.addFlags_result d v false).trans (by simp [AluOp.result, carryIn_false]))
  | adc => exact congrArg some (s.addFlags_result d v _)
  | sub => exact congrArg some ((s.subFlags_result d v false).trans (by simp [AluOp.result, carryIn_false]))
  | sbb => exact congrArg some (s.subFlags_result d v _)
  | cmp | and | or | xor => rfl

theorem AluOp.run_changesFlags {w : Nat} (op : AluOp) (d v : BitVec w) (s : State) : ChangesFlags s (op.run d v s).2 statusFlags := by
  cases op with
  | add | adc => exact .addFlags s d v _
  | sub | sbb | cmp => exact .subFlags s d v _
  | and | or | xor => exact .logicFlags s _

/-- The flags of an operation at any width at which CF, AF and OF of a sum and of a difference are as R28, R30 and R33 say. -/
theorem AluOp.run_flags {w : Nat} {s : State} {d v : BitVec w} (sum : ∀ c, SumFlags (s.addFlags d v c).2 d v c)
    (diff : ∀ c, DiffFlags (s.subFlags d v c).2 d v c) (op : AluOp) : op.Flags (op.run d v s).2 d v (s.flag .cf) := by
  have noCarry (x : BitVec w) : x + carryIn w false = x ∧ x - carryIn w false = x := by simp [carryIn_false]
  cases op with
  | add => exact ⟨sum _, (noCarry (d + v)).1 ▸ s.addFlags_szp d v false⟩
  | adc => exact ⟨sum _, s.addFlags_szp d v _⟩
  | sub | cmp => exact ⟨diff _, (noCarry (d - v)).2 ▸ s.subFlags_szp d v false⟩
  | sbb => exact ⟨diff _, s.subFlags_szp d v _⟩
  | and | or | xor => exact s.logicFlags_flags _

section
variable {s t : State} {op : AluOp}

theorem Alu8.ofWritten {l : Loc Reg8} {v : Byte}
    (h : t.valueAt8 l = s.stored8 l ((op.written (s.valueAt8 l) v (s.flag .cf)).getD (s.valueAt8 l)) ∧
      (∀ f, t.flag f = (op.run (s.valueAt8 l) v s).2.flag f) ∧ Frame s t (destOf8 l statusFlags (op.written (s.valueAt8 l) v (s.flag .cf)))) :
    Alu8 op s t l (s.valueAt8 l) v := by
  obtain ⟨value, same, frame⟩ := h
  have flags := AluOp.Flags.congr same (op.run_flags (s.addFlags_flags8 _ v) (s.subFlags_flags8 _ v))
  cases op <;> exact ⟨value, flags, frame⟩

theorem Alu16.ofWritten {l : Loc Reg16} {v : Word}
    (h : t.valueAt16 l = s.stored16 l ((op.written (s.valueAt16 l) v (s.flag .cf)).getD (s.valueAt16 l)) ∧
      (∀ f, t.flag f = (op.run (s.valueAt16 l) v s).2.flag f) ∧ Frame s t (destOf16 l statusFlags (op.written (s.valueAt16 l) v (s.flag .cf)))) :
    Alu16 op s t l (s.valueAt16 l) v := by
  obtain ⟨value, same, frame⟩ := h
  have flags := AluOp.Flags.congr same (op.run_flags (s.addFlags_flags16 _ v) (s.subFlags_flags16 _ v))
  cases op <;> exact ⟨value, flags, frame⟩

end

section
variable {s : State} (ready : s.Ready) (op : AluOp)
include ready

/-- `op E, src` at width 8. -/
theorem AluOp.binary8_spec {e : Rm8} (plain : s.plainLoc8 (s.locate e)) (v : Byte) :
    Alu8 op s (s.binary8 op.run e v) (s.locate e) (s.valueAt8 (s.locate e)) v :=
  .ofWritten (State.unary8_spec ready plain (Prod.ext (op.run_fst _ v s) rfl) (op.run_changesFlags _ v s))

/-- `op E, src` at width 16. -/
theorem AluOp.binary16_spec {e : Rm16} (plain : s.plainLoc16 (s.locate e)) (v : Word) :
    Alu16 op s (s.binary16 op.run e v) (s.locate e) (s.valueAt16 (s.locate e)) v :=
  .ofWritten (State.unary16_spec ready plain (Prod.ext (op.run_fst _ v s) rfl) (op.run_changesFlags _ v s))

/-- `op r, E` at width 8. -/
theorem AluOp.toReg8_spec (g : Reg8) {e : Rm8} (plain : s.plainLoc8 (s.locate e)) :
    Alu8 op s (s.toReg8 op.run g e) (.reg g) (s.reg8 g) (s.valueAt8 (s.locate e)) :=
  Alu8.ofWritten (l := .reg g) (State.toReg8_spec ready g plain (Prod.ext (op.run_fst _ _ s) rfl) (op.run_changesFlags _ _ s))

/-- `op r, E` at width 16. -/
theorem AluOp.toReg16_spec (g : Reg16) {e : Rm16} (plain : s.plainLoc16 (s.locate e)) :
    Alu16 op s (s.toReg16 op.run g e) (.reg g) (s.reg16 g) (s.valueAt16 (s.locate e)) :=
  Alu16.ofWritten (l := .reg g) (State.toReg16_spec ready g plain (Prod.ext (op.run_fst _ _ s) rfl) (op.run_changesFlags _ _ s))

end

/-- The nine forms are the four shapes: a form with AL or AX and an immediate is `op E, src` with a register for E (R248). -/
theorem AluOp.forms (op : AluOp) : op.Forms := by
  intro s ready
  refine ⟨fun e g plain => ?ebGb, fun e g plain => ?evGv, fun g e plain => ?gbEb, fun g e plain => ?gvEv, fun imm => ?alIb, fun imm => ?axIv,
    fun v e imm plain => ?ebIb, fun e imm plain => ?evIv, fun e imm plain => ?evIb⟩
  case ebGb => exact ⟨s.binary8 op.run e (s.reg8 g), by cases op <;> rfl, op.binary8_spec ready plain _⟩
  case evGv => exact ⟨s.binary16 op.run e (s.reg16 g), by cases op <;> rfl, op.binary16_spec ready plain _⟩
  case gbEb => exact ⟨s.toReg8 op.run g e, by cases op <;> rfl, op.toReg8_spec ready g plain⟩
  case gvEv => exact ⟨s.toReg16 op.run g e, by cases op <;> rfl, op.toReg16_spec ready g plain⟩
  case alIb => exact ⟨s.binary8 op.run (.reg .al) imm, by cases op <;> rfl, op.binary8_spec (e := .reg .al) ready trivial imm⟩
  case axIv => exact ⟨s.binary16 op.run (.reg .ax) imm, by cases op <;> rfl, op.binary16_spec (e := .reg .ax) ready trivial imm⟩
  case ebIb => exact ⟨s.binary8 op.run e imm, by cases op <;> rfl, op.binary8_spec ready plain imm⟩
  case evIv => exact ⟨s.binary16 op.run e imm, by cases op <;> rfl, op.binary16_spec ready plain imm⟩
  case evIb => exact ⟨s.binary16 op.run e (imm.signExtend 16), by cases op <;> rfl, op.binary16_spec ready plain _⟩

/-- Settles O12: two of the eight operations. -/
theorem addForms : Obligations.AddForms := ⟨AluOp.add.forms, AluOp.adc.forms⟩

/-- Settles O13: three of the eight operations; CMP has no result to write. -/
theorem subForms : Obligations.SubForms := ⟨AluOp.sub.forms, AluOp.sbb.forms, AluOp.cmp.forms⟩

end Sys2Proof.Machine

/-!
O16, O17. INC and DEC with the CF of before, NEG and NOT: `op E` of one operand (R252, R258-R262, R305).
-/

namespace Sys2Proof.Machine

theorem State.flag_keepCf (s t : State) (f : Flag) (other : f ≠ .cf) : (s.keepCf t).flag f = t.flag f := by
  simp [State.keepCf, other]

/-- Flags changed with CF put back: CF is none of those that change (R252). -/
theorem ChangesFlags.keepCf {s u : State} (h : ChangesFlags s u statusFlags) : ChangesFlags s (s.keepCf u) countFlags := by
  have all := h.frame.andThen (Frame.setFlag u .cf (s.flag .cf) (by simp [statusFlags]))
  refine ⟨h.only.trans (.setFlag u .cf _), { all.regs with flags := fun f n => ?_ }, all.ip, all.others⟩
  by_cases carry : f = .cf
  · simp [carry, State.keepCf]
  · exact all.regs.flags f (by simpa [statusFlags, countFlags, carry] using n)

section
variable {w : Nat} (s : State) (v : BitVec w)

theorem aluInc_eq : aluInc v s = (some (v + 1#w), s.keepCf (s.addFlags v 1#w false).2) := by
  simp [aluInc, State.addFlags_result, carryIn_false]

theorem aluDec_eq : aluDec v s = (some (v - 1#w), s.keepCf (s.subFlags v 1#w false).2) := by
  simp [aluDec, State.subFlags_result, carryIn_false]

theorem aluNeg_eq : aluNeg v s = (some (-v), (s.subFlags 0#w v false).2) := by
  simp [aluNeg, State.subFlags_result, carryIn_false]

theorem aluNeg_resultFlags : ResultFlags (s.subFlags 0#w v false).2 (-v) := by
  simpa [carryIn_false] using s.subFlags_szp 0#w v false

end

section
variable {w : Nat} {s t : State} {v : BitVec w}

/-- The flags of INC, at a width at which AF and OF of a sum are as R30 and R33 say. -/
theorem aluInc_flags (sum : SumFlags (s.addFlags v 1#w false).2 v 1#w false)
    (same : ∀ f, t.flag f = (s.keepCf (s.addFlags v 1#w false).2).flag f) : SumAux t v 1#w false ∧ ResultFlags t (v + 1#w) := by
  have kept (f : Flag) (other : f ≠ .cf) := (same f).trans (s.flag_keepCf _ f other)
  have result : ResultFlags (s.addFlags v 1#w false).2 (v + 1#w) := by simpa [carryIn_false] using s.addFlags_szp v 1#w false
  exact ⟨sum.toSumAux.congr kept, result.congr kept⟩

/-- The flags of DEC, at a width at which AF and OF of a difference are as R30 and R33 say. -/
theorem aluDec_flags (diff : DiffFlags (s.subFlags v 1#w false).2 v 1#w false)
    (same : ∀ f, t.flag f = (s.keepCf (s.subFlags v 1#w false).2).flag f) : DiffAux t v 1#w false ∧ ResultFlags t (v - 1#w) := by
  have kept (f : Flag) (other : f ≠ .cf) := (same f).trans (s.flag_keepCf _ f other)
  have result : ResultFlags (s.subFlags v 1#w false).2 (v - 1#w) := by simpa [carryIn_false] using s.subFlags_szp v 1#w false
  exact ⟨diff.toDiffAux.congr kept, result.congr kept⟩

end

section
variable {s : State} (ready : s.Ready)
include ready

theorem State.inc8_spec {e : Rm8} (plain : s.plainLoc8 (s.locate e)) : Inc8 s (s.unary8 aluInc e) (s.locate e) := by
  obtain ⟨value, same, frame⟩ := State.unary8_spec ready plain (aluInc_eq s _) (ChangesFlags.addFlags s _ _ _).keepCf
  exact ⟨value, aluInc_flags (s.addFlags_flags8 _ _ _) same, frame⟩

theorem State.inc16_spec {e : Rm16} (plain : s.plainLoc16 (s.locate e)) : Inc16 s (s.unary16 aluInc e) (s.locate e) := by
  obtain ⟨value, same, frame⟩ := State.unary16_spec ready plain (aluInc_eq s _) (ChangesFlags.addFlags s _ _ _).keepCf
  exact ⟨value, aluInc_flags (s.addFlags_flags16 _ _ _) same, frame⟩

theorem State.dec8_spec {e : Rm8} (plain : s.plainLoc8 (s.locate e)) : Dec8 s (s.unary8 aluDec e) (s.locate e) := by
  obtain ⟨value, same, frame⟩ := State.unary8_spec ready plain (aluDec_eq s _) (ChangesFlags.subFlags s _ _ _).keepCf
  exact ⟨value, aluDec_flags (s.subFlags_flags8 _ _ _) same, frame⟩

theorem State.dec16_spec {e : Rm16} (plain : s.plainLoc16 (s.locate e)) : Dec16 s (s.unary16 aluDec e) (s.locate e) := by
  obtain ⟨value, same, frame⟩ := State.unary16_spec ready plain (aluDec_eq s _) (ChangesFlags.subFlags s _ _ _).keepCf
  exact ⟨value, aluDec_flags (s.subFlags_flags16 _ _ _) same, frame⟩

end

/-- Settles O16: a word register is an Ev operand of its own. -/
theorem incDecForms : Obligations.IncDecForms := by
  unfold Obligations.IncDecForms
  intro s ready
  refine ⟨fun r => ?incReg, fun e plain => ?incEb, fun e plain => ?incEv, fun r => ?decReg, fun e plain => ?decEb, fun e plain => ?decEv⟩
  case incReg => exact ⟨_, rfl, State.inc16_spec (e := .reg r) ready trivial⟩
  case incEb => exact ⟨_, rfl, State.inc8_spec ready plain⟩
  case incEv => exact ⟨_, rfl, State.inc16_spec ready plain⟩
  case decReg => exact ⟨_, rfl, State.dec16_spec (e := .reg r) ready trivial⟩
  case decEb => exact ⟨_, rfl, State.dec8_spec ready plain⟩
  case decEv => exact ⟨_, rfl, State.dec16_spec ready plain⟩

section
variable {w : Nat} {t : State} {v : BitVec w} (h : DiffFlags t 0#w v false)
include h

/-- The borrow of `0 - v`: CF says that the operand was not 0 (R262). -/
theorem DiffFlags.cf_of_zero : t.flag .cf = decide (v ≠ 0#w) := by
  have carry : t.flag .cf = decide (0 < v.toNat) := by simpa using h.cf
  rw [carry, decide_eq_decide, Nat.pos_iff_ne_zero]
  exact not_congr ⟨fun zero => BitVec.eq_of_toNat_eq (by simpa using zero), fun zero => by simp [zero]⟩

/-- `0 - v` does not fit only where `v` is the least value (R262). -/
theorem DiffFlags.ovf_of_zero (pos : 0 < w) : t.flag .ovf = decide (v = BitVec.intMin w) := by
  rw [h.ovf, decide_eq_decide, ← BitVec.toInt_inj, BitVec.toInt_intMin_of_pos pos]
  have low := BitVec.le_toInt v
  have high := BitVec.toInt_lt (x := v)
  simp only [BitVec.toInt_zero, Bool.toNat_false]
  omega

end

section
variable {s : State} (ready : s.Ready)
include ready

theorem State.neg8_spec {e : Rm8} (plain : s.plainLoc8 (s.locate e)) : Neg8 s (s.unary8 aluNeg e) (s.locate e) := by
  obtain ⟨value, same, frame⟩ := State.unary8_spec ready plain (aluNeg_eq s _) (.subFlags s _ _ _)
  have flags := (s.subFlags_flags8 0#8 _ _).congr same
  exact ⟨value, ⟨flags, (aluNeg_resultFlags s _).congr fun f _ => same f⟩, ⟨flags.cf_of_zero, flags.ovf_of_zero (by decide)⟩, frame⟩

theorem State.neg16_spec {e : Rm16} (plain : s.plainLoc16 (s.locate e)) : Neg16 s (s.unary16 aluNeg e) (s.locate e) := by
  obtain ⟨value, same, frame⟩ := State.unary16_spec ready plain (aluNeg_eq s _) (.subFlags s _ _ _)
  have flags := (s.subFlags_flags16 0#16 _ _).congr same
  exact ⟨value, ⟨flags, (aluNeg_resultFlags s _).congr fun f _ => same f⟩, ⟨flags.cf_of_zero, flags.ovf_of_zero (by decide)⟩, frame⟩

end

/-- Settles O17: NOT has a result and changes no flag. -/
theorem negNotForms : Obligations.NegNotForms := by
  unfold Obligations.NegNotForms
  intro s ready
  refine ⟨fun e plain => ?negEb, fun e plain => ?negEv, fun e plain => ?notEb, fun e plain => ?notEv⟩
  case negEb => exact ⟨_, rfl, State.neg8_spec ready plain⟩
  case negEv => exact ⟨_, rfl, State.neg16_spec ready plain⟩
  case notEb =>
    obtain ⟨value, -, frame⟩ := State.unary8_spec ready plain (f := aluNot) rfl (.none s)
    exact ⟨_, rfl, value, frame⟩
  case notEv =>
    obtain ⟨value, -, frame⟩ := State.unary16_spec ready plain (f := aluNot) rfl (.none s)
    exact ⟨_, rfl, value, frame⟩

end Sys2Proof.Machine

/-!
O19, O20. MUL, IMUL, DIV and IDIV: the product, or the quotient and remainder, then the register it goes to, then the flags (R263-R266).
-/

namespace Sys2Proof.Machine

section
variable {s t u : State}

theorem ChangesFlags.andThen {fs : List Flag} (h : ChangesFlags s t fs) (k : ChangesFlags t u fs) : ChangesFlags s u fs :=
  ⟨h.only.trans k.only, h.frame.andThen k.frame⟩

theorem ChangesFlags.setFlag (s : State) (f : Flag) (b : Bool) {fs : List Flag} (mem : f ∈ fs) : ChangesFlags s (s.setFlag f b) fs :=
  ⟨.setFlag s f b, .setFlag s f b mem⟩

theorem ChangesFlags.undefList (s : State) {undefined fs : List Flag} (within : ∀ f ∈ undefined, f ∈ fs) : ChangesFlags s (s.undefList undefined) fs :=
  ⟨.undefList s undefined, .undefList s undefined within⟩

/-- An update of registers and then of flags. -/
theorem Frame.thenFlags {d : Dests} (h : Frame s t d) (k : ChangesFlags t u d.flags) : Frame s u d :=
  h.andThen (k.frame.mono ⟨by simp, by simp, by simp, fun _ m => m, by simp⟩)

theorem FlagsOnly.reg8 (h : FlagsOnly s t) (r : Reg8) : t.reg8 r = s.reg8 r := h.valueAt8 (.reg r)

theorem FlagsOnly.reg16 (h : FlagsOnly s t) (r : Reg16) : t.reg16 r = s.reg16 r := h.valueAt16 (.reg r)

end

/-- AL and AH are the two bytes of AX (R22). -/
theorem State.reg8_setAx (s : State) (h l : Byte) : (s.setReg16 .ax (h ++ l)).reg8 .al = l ∧ (s.setReg16 .ax (h ++ l)).reg8 .ah = h := by
  simp [State.reg8_setReg16, Reg8.word, Reg8.high]

/-- IMUL and IDIV have their meaning where they are not repeated (R424). -/
theorem repRefused_of_none {s : State} (plain : s.pfx.rep = none) (r : Res) : repRefused s r = r := by
  simp [repRefused, plain]

theorem mulProduct8_toNat (a v : Byte) : (mulProduct8 a v).toNat = a.toNat * v.toNat := Nat.mod_eq_of_lt BitVec.toNat_mul_toNat_lt

theorem mulProduct16_toNat (a v : Word) : (mulProduct16 a v).toNat = a.toNat * v.toNat := Nat.mod_eq_of_lt BitVec.toNat_mul_toNat_lt

theorem imulProduct8_toInt (a v : Byte) : (imulProduct8 a v).toInt = a.toInt * v.toInt := by
  have low := BitVec.le_toInt_mul_toInt (x := a) (y := v)
  have high := BitVec.toInt_mul_toInt_le (x := a) (y := v)
  exact BitVec.toInt_ofInt_eq_self (by decide) (by omega) (by omega)

theorem imulProduct16_toInt (a v : Word) : (imulProduct16 a v).toInt = a.toInt * v.toInt := by
  have low := BitVec.le_toInt_mul_toInt (x := a) (y := v)
  have high := BitVec.toInt_mul_toInt_le (x := a) (y := v)
  exact BitVec.toInt_ofInt_eq_self (by decide) (by omega) (by omega)

theorem mulWide8_eq (p : Word) : mulWide8 p = decide (highByte p ≠ 0) := by simp [mulWide8, bne, Bool.beq_eq_decide_eq]

theorem mulWide16_eq (p : BitVec 32) : mulWide16 p = decide (p.extractLsb' 16 16 ≠ 0) := by simp [mulWide16, bne, Bool.beq_eq_decide_eq]

/-- CF and OF of a multiplication are set, the other status flags undefined (R263, R264). -/
theorem State.mulFlags_spec (s : State) (wide : Bool) :
    (s.mulFlags wide).flag .cf = wide ∧ (s.mulFlags wide).flag .ovf = wide ∧ ChangesFlags s (s.mulFlags wide) statusFlags := by
  refine ⟨?_, ?_, ((ChangesFlags.setFlag s .cf wide (by decide)).andThen (.setFlag _ .ovf wide (by decide))).andThen (.undefList _ (by decide))⟩
  all_goals
    rw [State.mulFlags, State.undefList_other _ _ (by decide)]
    simp

theorem ChangesFlags.divFlags (s : State) : ChangesFlags s s.divFlags statusFlags := .undefList s (by decide)

section
variable {s : State} (direct : s.Direct)
include direct

/-- A byte multiplication: AX is the product (R263, R264). -/
theorem State.multiply8_spec (product : Byte → Byte → Word) (wide : Word → Bool) {e : Rm8} (plain : s.plainLoc8 (s.locate e)) :
    let p := product (s.reg8 .al) (s.valueAt8 (s.locate e))
    let t := s.multiply8 product wide e
    t.reg16 .ax = p ∧ t.flag .cf = wide p ∧ t.flag .ovf = wide p ∧ Frame s t { words := [.ax], flags := statusFlags } := by
  intro p t
  have stored : t = (s.setReg16 .ax p).mulFlags (wide p) := by simp only [t, p, State.multiply8, State.read8_plain direct plain]
  obtain ⟨cf, ovf, changed⟩ := (s.setReg16 .ax p).mulFlags_spec (wide p)
  rw [stored]
  exact ⟨(changed.only.reg16 .ax).trans (by simp), cf, ovf, (Frame.setReg16 s .ax p (by simp)).thenFlags changed⟩

/-- A word multiplication: DX:AX is the product (R263, R264). -/
theorem State.multiply16_spec (product : Word → Word → BitVec 32) (wide : BitVec 32 → Bool) {e : Rm16} (plain : s.plainLoc16 (s.locate e)) :
    let p := product (s.reg16 .ax) (s.valueAt16 (s.locate e))
    let t := s.multiply16 product wide e
    t.reg16 .dx = p.extractLsb' 16 16 ∧ t.reg16 .ax = p.extractLsb' 0 16 ∧ t.flag .cf = wide p ∧ t.flag .ovf = wide p ∧
      Frame s t { words := [.ax, .dx], flags := statusFlags } := by
  intro p t
  have stored : t = ((s.setReg16 .ax (p.extractLsb' 0 16)).setReg16 .dx (p.extractLsb' 16 16)).mulFlags (wide p) := by
    simp only [t, p, State.multiply16, State.read16_plain direct plain]
  obtain ⟨cf, ovf, changed⟩ := ((s.setReg16 .ax (p.extractLsb' 0 16)).setReg16 .dx (p.extractLsb' 16 16)).mulFlags_spec (wide p)
  rw [stored]
  exact ⟨(changed.only.reg16 .dx).trans (by simp), (changed.only.reg16 .ax).trans (by simp), cf, ovf,
    ((Frame.setReg16 s .ax _ (by simp)).andThen (Frame.setReg16 _ .dx _ (by simp))).thenFlags changed⟩

/-- A byte divide with a quotient: AL is the quotient and AH the remainder (R265, R266). -/
theorem State.divide8_spec {quotient : Word → Byte → Option (Byte × Byte)} {e : Rm8} (plain : s.plainLoc8 (s.locate e)) {q m : Byte}
    (fits : quotient (s.reg16 .ax) (s.valueAt8 (s.locate e)) = some (q, m)) :
    (s.divide8 quotient e).reg8 .al = q ∧ (s.divide8 quotient e).reg8 .ah = m ∧
      Frame s (s.divide8 quotient e) { words := [.ax], flags := statusFlags } := by
  have stored : s.divide8 quotient e = (s.setReg16 .ax (m ++ q)).divFlags := by simp only [State.divide8, State.read8_plain direct plain, fits]
  have changed := ChangesFlags.divFlags (s.setReg16 .ax (m ++ q))
  obtain ⟨al, ah⟩ := s.reg8_setAx m q
  rw [stored]
  exact ⟨(changed.only.reg8 .al).trans al, (changed.only.reg8 .ah).trans ah, (Frame.setReg16 s .ax _ (by simp)).thenFlags changed⟩

/-- A word divide with a quotient: AX is the quotient and DX the remainder (R265, R266). -/
theorem State.divide16_spec {quotient : BitVec 32 → Word → Option (Word × Word)} {e : Rm16} (plain : s.plainLoc16 (s.locate e)) {q m : Word}
    (fits : quotient (s.reg16 .dx ++ s.reg16 .ax) (s.valueAt16 (s.locate e)) = some (q, m)) :
    (s.divide16 quotient e).reg16 .ax = q ∧ (s.divide16 quotient e).reg16 .dx = m ∧
      Frame s (s.divide16 quotient e) { words := [.ax, .dx], flags := statusFlags } := by
  have stored : s.divide16 quotient e = ((s.setReg16 .ax q).setReg16 .dx m).divFlags := by
    simp only [State.divide16, State.read16_plain direct plain, fits]
  have changed := ChangesFlags.divFlags ((s.setReg16 .ax q).setReg16 .dx m)
  rw [stored]
  exact ⟨(changed.only.reg16 .ax).trans (by simp), (changed.only.reg16 .dx).trans (by simp),
    ((Frame.setReg16 s .ax q (by simp)).andThen (Frame.setReg16 _ .dx m (by simp))).thenFlags changed⟩

end

/-- Settles O19: the product fits the registers it goes to, and CF and OF are the test of its high half. -/
theorem mulForms : Obligations.MulForms := by
  unfold Obligations.MulForms
  refine ⟨fun s ready => ⟨fun e plain => ?mulEb, fun e plain => ?mulEv⟩, fun s ready single => ⟨fun e plain => ?imulEb, fun e plain => ?imulEv⟩⟩
  case mulEb =>
    obtain ⟨ax, cf, ovf, frame⟩ := State.multiply8_spec ready.direct mulProduct8 mulWide8 plain
    rw [← ax, mulWide8_eq] at cf ovf
    exact ⟨_, rfl, (congrArg BitVec.toNat ax).trans (mulProduct8_toNat _ _), cf, ovf, frame⟩
  case mulEv =>
    obtain ⟨dx, ax, cf, ovf, frame⟩ := State.multiply16_spec ready.direct mulProduct16 mulWide16 plain
    rw [mulWide16_eq, ← dx] at cf ovf
    refine ⟨_, rfl, ?_, cf, ovf, frame⟩
    rw [dx, ax, BitVec.extractLsb'_append_extractLsb', mulProduct16_toNat]
  case imulEb =>
    obtain ⟨ax, cf, ovf, frame⟩ := State.multiply8_spec ready.direct imulProduct8 imulWide8 plain
    rw [← ax] at cf ovf
    exact ⟨_, repRefused_of_none single _, (congrArg BitVec.toInt ax).trans (imulProduct8_toInt _ _), cf, ovf.trans cf.symm, frame⟩
  case imulEv =>
    obtain ⟨dx, ax, cf, ovf, frame⟩ := State.multiply16_spec ready.direct imulProduct16 imulWide16 plain
    refine ⟨_, repRefused_of_none single _, ?_, ?_, ovf.trans cf.symm, frame⟩
    · rw [dx, ax, BitVec.extractLsb'_append_extractLsb', imulProduct16_toInt]
    · rw [cf, dx, ax, BitVec.extractLsb'_append_extractLsb']
      rfl

/-- A divisor other than 0 is not 0 as the natural number R265 divides by. -/
theorem toNat_ne_zero_of_ne {w : Nat} {d : BitVec w} (nonzero : d ≠ 0#w) : d.toNat ≠ 0 :=
  fun zero => nonzero (BitVec.eq_of_toNat_eq (by simpa using zero))

/-- A divisor other than 0 is not 0 as the integer R266 divides by. -/
theorem toInt_ne_zero_of_ne {w : Nat} {d : BitVec w} (nonzero : d ≠ 0#w) : d.toInt ≠ 0 :=
  fun zero => nonzero (BitVec.toInt_inj.mp (by simpa using zero))

/-- A remainder fits in the divisor's width (R265). -/
theorem toNat_ofNat_mod {w : Nat} (n : Nat) {d : BitVec w} (nonzero : d ≠ 0#w) : (BitVec.ofNat w (n % d.toNat)).toNat = n % d.toNat :=
  Nat.mod_eq_of_lt ((Nat.mod_lt n (Nat.pos_of_ne_zero (toNat_ne_zero_of_ne nonzero))).trans d.isLt)

/-- A remainder with the sign of the dividend fits in the divisor's width (R266). -/
theorem toInt_ofInt_tmod {w : Nat} (pos : 0 < w) (n : Int) {d : BitVec w} (nonzero : d ≠ 0#w) :
    (BitVec.ofInt w (n.tmod d.toInt)).toInt = n.tmod d.toInt := by
  have small : (n.tmod d.toInt).natAbs < d.toInt.natAbs := by
    rw [Int.natAbs_tmod]
    exact Nat.mod_lt _ (Int.natAbs_pos.mpr (toInt_ne_zero_of_ne nonzero))
  have low := BitVec.le_toInt d
  have high := BitVec.toInt_lt (x := d)
  exact BitVec.toInt_ofInt_eq_self pos (by omega) (by omega)

theorem divQuotient8_of_fits {n : Word} {d : Byte} (nonzero : d ≠ 0) (fits : n.toNat / d.toNat < 2 ^ 8) :
    ∃ q m, divQuotient8 n d = some (q, m) ∧ q.toNat = n.toNat / d.toNat ∧ m.toNat = n.toNat % d.toNat :=
  ⟨_, _, if_neg (not_or.mpr ⟨toNat_ne_zero_of_ne nonzero, Nat.not_le.mpr fits⟩), Nat.mod_eq_of_lt fits, toNat_ofNat_mod _ nonzero⟩

theorem divQuotient16_of_fits {n : BitVec 32} {d : Word} (nonzero : d ≠ 0) (fits : n.toNat / d.toNat < 2 ^ 16) :
    ∃ q m, divQuotient16 n d = some (q, m) ∧ q.toNat = n.toNat / d.toNat ∧ m.toNat = n.toNat % d.toNat :=
  ⟨_, _, if_neg (not_or.mpr ⟨toNat_ne_zero_of_ne nonzero, Nat.not_le.mpr fits⟩), Nat.mod_eq_of_lt fits, toNat_ofNat_mod _ nonzero⟩

theorem idivQuotient8_of_fits {n : Word} {d : Byte} (nonzero : d ≠ 0) (low : -127 ≤ n.toInt.tdiv d.toInt) (high : n.toInt.tdiv d.toInt ≤ 127) :
    ∃ q m, idivQuotient8 n d = some (q, m) ∧ q.toInt = n.toInt.tdiv d.toInt ∧ m.toInt = n.toInt.tmod d.toInt := by
  have fits : ¬(d.toInt = 0 ∨ 127 < n.toInt.tdiv d.toInt ∨ n.toInt.tdiv d.toInt < -127) := by
    have := toInt_ne_zero_of_ne nonzero
    omega
  exact ⟨_, _, if_neg fits, BitVec.toInt_ofInt_eq_self (by decide) (by omega) (by omega), toInt_ofInt_tmod (by decide) _ nonzero⟩

theorem idivQuotient16_of_fits {n : BitVec 32} {d : Word} (nonzero : d ≠ 0) (low : -32767 ≤ n.toInt.tdiv d.toInt)
    (high : n.toInt.tdiv d.toInt ≤ 32767) :
    ∃ q m, idivQuotient16 n d = some (q, m) ∧ q.toInt = n.toInt.tdiv d.toInt ∧ m.toInt = n.toInt.tmod d.toInt := by
  have fits : ¬(d.toInt = 0 ∨ 32767 < n.toInt.tdiv d.toInt ∨ n.toInt.tdiv d.toInt < -32767) := by
    have := toInt_ne_zero_of_ne nonzero
    omega
  exact ⟨_, _, if_neg fits, BitVec.toInt_ofInt_eq_self (by decide) (by omega) (by omega), toInt_ofInt_tmod (by decide) _ nonzero⟩

/-- Settles O20: where the quotient fits, the divide has a quotient and a remainder, and these are what the registers hold. -/
theorem divForms : Obligations.DivForms := by
  unfold Obligations.DivForms
  refine ⟨fun s ready => ⟨fun e plain nonzero fits => ?divEb, fun e plain nonzero fits => ?divEv⟩,
    fun s ready single => ⟨fun e plain nonzero low high => ?idivEb, fun e plain nonzero low high => ?idivEv⟩⟩
  case divEb =>
    obtain ⟨q, m, quotient, qValue, mValue⟩ := divQuotient8_of_fits nonzero fits
    obtain ⟨al, ah, frame⟩ := State.divide8_spec ready.direct plain quotient
    exact ⟨_, rfl, by rw [al, qValue], by rw [ah, mValue], frame⟩
  case divEv =>
    obtain ⟨q, m, quotient, qValue, mValue⟩ := divQuotient16_of_fits nonzero fits
    obtain ⟨ax, dx, frame⟩ := State.divide16_spec ready.direct plain quotient
    exact ⟨_, rfl, by rw [ax, qValue], by rw [dx, mValue], frame⟩
  case idivEb =>
    obtain ⟨q, m, quotient, qValue, mValue⟩ := idivQuotient8_of_fits nonzero low high
    obtain ⟨al, ah, frame⟩ := State.divide8_spec ready.direct plain quotient
    exact ⟨_, repRefused_of_none single _, by rw [al, qValue], by rw [ah, mValue], frame⟩
  case idivEv =>
    obtain ⟨q, m, quotient, qValue, mValue⟩ := idivQuotient16_of_fits nonzero low high
    obtain ⟨ax, dx, frame⟩ := State.divide16_spec ready.direct plain quotient
    exact ⟨_, repRefused_of_none single _, by rw [ax, qValue], by rw [dx, mValue], frame⟩

end Sys2Proof.Machine

/-!
O22, O23. The decimal adjustments and the sign extensions: AL or AX is written and then the flags (R267-R274).
-/

namespace Sys2Proof.Machine

theorem ChangesFlags.szp {w : Nat} (s : State) (r : BitVec w) : ChangesFlags s (s.szp r) statusFlags := ⟨.szp s r, .szp s r (by decide)⟩

theorem ChangesFlags.undefFlag (s : State) (f : Flag) (b : Option Bool) {fs : List Flag} (mem : f ∈ fs) : ChangesFlags s (s.undefFlag f b) fs :=
  ⟨.undefFlag s f b, .undefFlag s f b mem⟩

/-- Undefined flags leave the description of a result alone where SF, ZF and PF are not among them (R38). -/
theorem ResultFlags.undefList {w : Nat} {s : State} {r : BitVec w} (h : ResultFlags s r) {undefined : List Flag}
    (others : .sf ∉ undefined ∧ .zf ∉ undefined ∧ .pf ∉ undefined) : ResultFlags (s.undefList undefined) r :=
  ⟨(s.undefList_other _ others.1).trans h.sf, (s.undefList_other _ others.2.1).trans h.zf, (s.undefList_other _ others.2.2).trans h.pf⟩

/-- The low digit of a byte (R267). -/
theorem toNat_lowDigit (b : Byte) : (b &&& 0x0F#8).toNat = b.toNat % 16 := by
  rw [BitVec.toNat_and]
  exact Nat.and_two_pow_sub_one_eq_mod b.toNat 4

theorem State.adjustLow_eq (s : State) : s.adjustLow = (decide (9 < (s.reg8 .al).toNat % 16) || s.flag .af) := by
  rw [State.adjustLow, toNat_lowDigit]

/-- AAA and AAS, whatever they do to AL and AH where the test holds (R267, R268). -/
theorem State.asciiAdjust_spec (s : State) (fl fh : Byte → Byte) :
    let c := s.adjustLow
    let t := s.asciiAdjust fl fh
    t.reg8 .al = (if c then fl (s.reg8 .al) else s.reg8 .al) &&& 0x0F#8 ∧ t.reg8 .ah = (if c then fh (s.reg8 .ah) else s.reg8 .ah) ∧
      t.flag .af = c ∧ t.flag .cf = c ∧ Frame s t { words := [.ax], flags := statusFlags } := by
  intro c t
  obtain ⟨al, ah⟩ := s.reg8_setAx (if c then fh (s.reg8 .ah) else s.reg8 .ah) ((if c then fl (s.reg8 .al) else s.reg8 .al) &&& 0x0F#8)
  have changed : ChangesFlags (s.setReg16 .ax _) t statusFlags :=
    ((ChangesFlags.setFlag _ .af c (by decide)).andThen (.setFlag _ .cf c (by decide))).andThen (.undefList _ (by decide))
  refine ⟨(changed.only.reg8 .al).trans al, (changed.only.reg8 .ah).trans ah, ?_, ?_, (Frame.setReg16 s .ax _ (by simp)).thenFlags changed⟩
  all_goals
    simp only [t, State.asciiAdjust]
    rw [State.undefList_other _ _ (by decide)]
    simp [c]

/-- AL and the flags as DAA and DAS leave them (R269, R270). -/
def State.decimalResult (s : State) (v : Byte) (low carry : Bool) : State :=
  ((((s.setReg8 .al v).setFlag .af low).setFlag .cf carry).szp v).undefFlag .ovf none

theorem State.decimalResult_spec (s : State) (v : Byte) (low carry : Bool) :
    let t := s.decimalResult v low carry
    t.reg8 .al = v ∧ t.flag .af = low ∧ t.flag .cf = carry ∧ ResultFlags t (t.reg8 .al) ∧ Frame s t { bytes := [.al], flags := statusFlags } := by
  intro t
  have changed : ChangesFlags (s.setReg8 .al v) t statusFlags :=
    (((ChangesFlags.setFlag _ .af low (by decide)).andThen (.setFlag _ .cf carry (by decide))).andThen (.szp _ v)).andThen
      (.undefFlag _ .ovf none (by decide))
  have al : t.reg8 .al = v := (changed.only.reg8 .al).trans (by simp)
  refine ⟨al, ?_, ?_, ?_, (Frame.setReg8 s .al v (.inl (by simp))).thenFlags changed⟩
  · simp [t, State.decimalResult, State.undefFlag_other, State.szp_flag_other]
  · simp [t, State.decimalResult, State.undefFlag_other, State.szp_flag_other]
  · rw [al]
    exact (State.szp_flags _ v).undefList (undefined := [.ovf]) (by decide)

/-- What DAA adds to AL and DAS subtracts from it (R269, R270). -/
def decimalBy (low high : Bool) : Byte := (if low then 6#8 else 0#8) + (if high then 0x60#8 else 0#8)

theorem State.decimalAdd_eq (s : State) :
    s.decimalAdd = s.decimalResult (s.reg8 .al + decimalBy s.adjustLow s.adjustHigh) s.adjustLow s.adjustHigh := by
  have two (a : Byte) (lo hi : Bool) : (if hi then (if lo then a + 6 else a) + 0x60 else if lo then a + 6 else a) = a + decimalBy lo hi := by
    cases lo <;> cases hi <;> simp [decimalBy, BitVec.add_assoc]
  simp only [State.decimalAdd, two]
  rfl

/-- The carry of the first step of DAS counts only where the second test fails, and so CF was 0 (R270). -/
theorem State.decimalSub_eq (s : State) :
    s.decimalSub = s.decimalResult (s.reg8 .al - decimalBy s.adjustLow s.adjustHigh) s.adjustLow
      (s.adjustHigh || (s.adjustLow && decide ((s.reg8 .al).toNat < 6))) := by
  have two (a : Byte) (lo hi : Bool) : (if hi then (if lo then a - 6 else a) - 0x60 else if lo then a - 6 else a) = a - decimalBy lo hi := by
    cases lo <;> cases hi <;> simp [decimalBy, BitVec.sub_eq_add_neg, BitVec.add_assoc]
  have carry : (s.adjustHigh || (s.adjustLow && (s.flag .cf || decide ((s.reg8 .al).toNat < 6)))) =
      (s.adjustHigh || (s.adjustLow && decide ((s.reg8 .al).toNat < 6))) := by
    cases cf : s.flag .cf <;> simp [State.adjustHigh, cf]
  simp only [State.decimalSub, two, carry]
  rfl

/-- Settles O22: the model's first test is on the low digit, and both tests are on the AL of before. -/
theorem decimalAdjust : Obligations.DecimalAdjust := by
  unfold Obligations.DecimalAdjust
  refine ⟨fun s => ?ascii, fun s => ?packed⟩
  case ascii =>
    intro adj
    have test : s.adjustLow = adj := s.adjustLow_eq
    have small := (s.reg8 .al).isLt
    refine ⟨?aaa, ?aas⟩
    case aaa =>
      obtain ⟨al, ah, af, cf, frame⟩ := s.asciiAdjust_spec (· + 6) (· + 1)
      rw [test] at al ah af cf
      refine ⟨_, rfl, ?_, ?_, af, cf, frame⟩
      · rw [al, toNat_lowDigit]
        cases adj with
        | false => rfl
        | true => simp
      · rw [ah]
        cases adj <;> simp
    case aas =>
      obtain ⟨al, ah, af, cf, frame⟩ := s.asciiAdjust_spec (· - 6) (· - 1)
      rw [test] at al ah af cf
      refine ⟨_, rfl, ?_, ?_, af, cf, frame⟩
      · rw [al, toNat_lowDigit]
        cases adj with
        | false => rfl
        | true =>
          simp
          omega
      · rw [ah]
        cases adj <;> simp
  case packed =>
    intro lo hi amount
    have low : s.adjustLow = lo := s.adjustLow_eq
    have add := s.decimalAdd_eq
    have sub := s.decimalSub_eq
    rw [low] at add sub
    exact ⟨⟨_, congrArg Host.Outcome.next add, s.decimalResult_spec _ _ _⟩, ⟨_, congrArg Host.Outcome.next sub, s.decimalResult_spec _ _ _⟩⟩

/-- AX and the flags as AAM and AAD leave them (R271, R272). -/
def State.digitsResult (s : State) (h l : Byte) : State := ((s.setReg16 .ax (h ++ l)).szp l).undefList [.ovf, .af, .cf]

theorem State.digitsResult_spec (s : State) (h l : Byte) :
    let t := s.digitsResult h l
    t.reg8 .ah = h ∧ t.reg8 .al = l ∧ ResultFlags t (t.reg8 .al) ∧ Frame s t { words := [.ax], flags := statusFlags } := by
  intro t
  have changed : ChangesFlags (s.setReg16 .ax (h ++ l)) t statusFlags := (ChangesFlags.szp _ l).andThen (.undefList _ (by decide))
  have al : t.reg8 .al = l := (changed.only.reg8 .al).trans (s.reg8_setAx h l).1
  refine ⟨(changed.only.reg8 .ah).trans (s.reg8_setAx h l).2, al, ?_, (Frame.setReg16 s .ax _ (by simp)).thenFlags changed⟩
  rw [al]
  exact (State.szp_flags _ l).undefList (by decide)

theorem State.asciiMul_of_ne (s : State) {n : Byte} (nonzero : n ≠ 0#8) :
    s.asciiMul n = s.digitsResult (BitVec.ofNat 8 ((s.reg8 .al).toNat / n.toNat)) (BitVec.ofNat 8 ((s.reg8 .al).toNat % n.toNat)) :=
  if_neg nonzero

/-- A word below a word that repeats its sign is its sign extension (R274). -/
theorem toInt_signWord_append (v : Word) : ((if v.msb then 0xFFFF#16 else 0#16) ++ v).toInt = v.toInt := by
  rw [BitVec.toInt_append, BitVec.toInt_eq_msb_cond v]
  cases v.msb with
  | false => simp
  | true =>
    simp
    omega

/-- Settles O23: AAM and AAD write two digits, CBW and CWD one register. -/
theorem adjustAndExtend : Obligations.AdjustAndExtend := by
  unfold Obligations.AdjustAndExtend
  intro s
  refine ⟨fun n nonzero => ?aam, fun n => ?aad, ?cbw, ?cwd⟩
  case aam =>
    refine ⟨s.asciiMul n, rfl, ?_⟩
    rw [s.asciiMul_of_ne nonzero]
    obtain ⟨ah, al, result, frame⟩ := s.digitsResult_spec (BitVec.ofNat 8 ((s.reg8 .al).toNat / n.toNat)) (BitVec.ofNat 8 ((s.reg8 .al).toNat % n.toNat))
    refine ⟨?_, ?_, result, frame⟩
    · rw [ah]
      exact Nat.mod_eq_of_lt ((Nat.div_le_self _ _).trans_lt (s.reg8 .al).isLt)
    · rw [al]
      exact toNat_ofNat_mod _ nonzero
  case aad =>
    obtain ⟨ah, al, result, frame⟩ := s.digitsResult_spec 0#8 (BitVec.ofNat 8 ((s.reg8 .al).toNat + (s.reg8 .ah).toNat * n.toNat))
    exact ⟨_, rfl, congrArg BitVec.toNat al, ah, result, frame⟩
  case cbw =>
    refine ⟨_, rfl, ?_, Frame.setReg16 s .ax _ (by simp)⟩
    simp only [State.reg16_setReg16, if_pos]
    exact BitVec.toInt_signExtend_of_le (by decide)
  case cwd =>
    refine ⟨_, rfl, ?_, Frame.setReg16 s .dx _ (by simp)⟩
    simpa using toInt_signWord_append (s.reg16 .ax)

end Sys2Proof.Machine

/-!
O14, O15. The logic operations, three of the eight of R248, and TEST, which has flags and no result to write (R300-R304, R419).
-/

namespace Sys2Proof.Machine

/-- Settles O14: three of the eight operations. -/
theorem logicForms : Obligations.LogicForms := ⟨AluOp.and.forms, AluOp.or.forms, AluOp.xor.forms⟩

section
variable {s : State} (ready : s.Ready)
include ready

/-- `TEST E, src` at width 8. -/
theorem State.test8_spec {e : Rm8} (plain : s.plainLoc8 (s.locate e)) (v : Byte) :
    Tested s (s.binary8 aluTest e v) (s.valueAt8 (s.locate e)) v := by
  obtain ⟨-, same, frame⟩ := State.unary8_spec ready plain (f := fun d => aluTest d v) rfl (.logicFlags s _)
  exact ⟨(s.logicFlags_flags _).congr same, frame⟩

/-- `TEST E, src` at width 16. -/
theorem State.test16_spec {e : Rm16} (plain : s.plainLoc16 (s.locate e)) (v : Word) :
    Tested s (s.binary16 aluTest e v) (s.valueAt16 (s.locate e)) v := by
  obtain ⟨-, same, frame⟩ := State.unary16_spec ready plain (f := fun d => aluTest d v) rfl (.logicFlags s _)
  exact ⟨(s.logicFlags_flags _).congr same, frame⟩

end

/-- Settles O15: every form is `TEST E, src`, those of AL and AX with a register for E; /1 has the meaning of /0 where it is admitted. -/
theorem testForms : Obligations.TestForms := by
  unfold Obligations.TestForms
  intro s ready
  refine ⟨fun e g plain => ?ebGb, fun e g plain => ?evGv, fun imm => ?alIb, fun imm => ?axIv, fun v e imm admitted plain => ?ebIb,
    fun v e imm admitted plain => ?evIv⟩
  case ebGb => exact ⟨_, rfl, State.test8_spec ready plain _⟩
  case evGv => exact ⟨_, rfl, State.test16_spec ready plain _⟩
  case alIb => exact ⟨_, rfl, State.test8_spec (e := .reg .al) ready trivial imm⟩
  case axIv => exact ⟨_, rfl, State.test16_spec (e := .reg .ax) ready trivial imm⟩
  case ebIb => exact ⟨_, documentedMain_of_admits admitted _, State.test8_spec ready plain imm⟩
  case evIv => exact ⟨_, documentedMain_of_admits admitted _, State.test16_spec ready plain imm⟩

end Sys2Proof.Machine

/-!
O18. One step of a shift or rotate is the library's shift or rotate by 1, of the operand or, for RCL and RCR, of CF and the operand together, so `n` steps are
the library's by `n` (R306-R313). OF is that of the last step (R314).
-/

namespace Sys2Proof.Machine

/-! ## Rotation by a sum -/

section
variable {w : Nat} (x : BitVec w)

theorem rotateLeft_add (m n : Nat) : x.rotateLeft (m + n) = (x.rotateLeft m).rotateLeft n := by
  refine BitVec.eq_of_getMsbD_eq fun i hi => ?_
  have inside : (n + i) % w < w := Nat.mod_lt _ (by omega)
  simp [BitVec.getMsbD_rotateLeft, hi, inside, Nat.add_assoc]

theorem getLsbD_rotateRight_mod (r : Nat) {i : Nat} (hi : i < w) : (x.rotateRight r).getLsbD i = x.getLsbD ((r + i) % w) := by
  rw [BitVec.getLsbD_rotateRight, Nat.add_mod_eq_ite, Nat.mod_eq_of_lt hi]
  have inside : r % w < w := Nat.mod_lt _ (by omega)
  by_cases wraps : w ≤ r % w + i
  · have high : ¬ i < w - r % w := by omega
    have low : i - (w - r % w) = r % w + i - w := by omega
    simp [wraps, high, hi, low]
  · have low : i < w - r % w := by omega
    simp [wraps, low]

theorem rotateRight_add (m n : Nat) : x.rotateRight (m + n) = (x.rotateRight m).rotateRight n := by
  refine BitVec.eq_of_getLsbD_eq fun i hi => ?_
  have inside : (n + i) % w < w := Nat.mod_lt _ (by omega)
  rw [getLsbD_rotateRight_mod _ _ hi, getLsbD_rotateRight_mod _ _ hi, getLsbD_rotateRight_mod _ _ inside, Nat.add_mod_mod, Nat.add_assoc]

end

/-! ## One step -/

section
variable {w : Nat} (x : BitVec w) (b : Bool) {i : Nat} (inside : i < w)
include inside

/-- A shift up by one with `b` shifted in. -/
theorem getLsbD_shiftUp : ((x <<< 1) ||| (if b then 1#w else 0#w)).getLsbD i = if i = 0 then b else x.getLsbD (i - 1) := by
  cases i with
  | zero => cases b <;> simp [inside]
  | succ j =>
    have below : j < w := by omega
    cases b <;> simp [inside, below]

/-- A shift down by one with `b` shifted in. -/
theorem getLsbD_shiftDown :
    ((x >>> 1) ||| (if b then BitVec.twoPow w (w - 1) else 0#w)).getLsbD i = if i + 1 = w then b else x.getLsbD (i + 1) := by
  have top : w - 1 = i ↔ i + 1 = w := by omega
  have pos : 0 < w := by omega
  by_cases last : i + 1 = w
  · cases b <;> simp [BitVec.getLsbD_twoPow, last, pos, top, Nat.add_comm 1 i]
  · cases b <;> simp [BitVec.getLsbD_twoPow, last, top, Nat.add_comm 1 i]

theorem getLsbD_rotateLeft_one (wide : 1 < w) : (x.rotateLeft 1).getLsbD i = if i = 0 then x.msb else x.getLsbD (i - 1) := by
  rw [BitVec.getLsbD_rotateLeft, Nat.mod_eq_of_lt wide]
  cases i <;> simp [BitVec.msb_eq_getLsbD_last, inside]

theorem getLsbD_rotateRight_one : (x.rotateRight 1).getLsbD i = if i + 1 = w then x.getLsbD 0 else x.getLsbD (i + 1) := by
  rw [getLsbD_rotateRight_mod x 1 inside, Nat.add_comm]
  split
  · next last => simp [last]
  · next low => rw [Nat.mod_eq_of_lt (by omega)]

end

section
variable {w : Nat}

theorem shiftStep_rol (wide : 1 < w) (v : BitVec w) (c : Bool) : shiftStep .rol ⟨v, c⟩ = ⟨v.rotateLeft 1, (v.rotateLeft 1).getLsbD 0⟩ := by
  refine congrArg₂ ShiftVal.mk (BitVec.eq_of_getLsbD_eq fun i inside => ?_) ?_
  · rw [getLsbD_shiftUp _ _ inside, getLsbD_rotateLeft_one v inside wide]
  · rw [getLsbD_rotateLeft_one v (by omega) wide, if_pos rfl]

theorem shiftStep_ror (pos : 0 < w) (v : BitVec w) (c : Bool) : shiftStep .ror ⟨v, c⟩ = ⟨v.rotateRight 1, (v.rotateRight 1).msb⟩ := by
  refine congrArg₂ ShiftVal.mk (BitVec.eq_of_getLsbD_eq fun i inside => ?_) ?_
  · rw [getLsbD_shiftDown _ _ inside, getLsbD_rotateRight_one v inside]
  · rw [BitVec.msb_eq_getLsbD_last, getLsbD_rotateRight_one v (by omega), if_pos (by omega)]

/-- RCL on the operand and CF taken together, CF on top (R309). -/
theorem shiftStep_rcl (pos : 0 < w) (z : BitVec (w + 1)) :
    shiftStep .rcl ⟨z.setWidth w, z.msb⟩ = ⟨(z.rotateLeft 1).setWidth w, (z.rotateLeft 1).msb⟩ := by
  refine congrArg₂ ShiftVal.mk (BitVec.eq_of_getLsbD_eq fun i inside => ?_) ?_
  · have below : i - 1 < w := by omega
    simp only [getLsbD_shiftUp _ _ inside, BitVec.getLsbD_setWidth, getLsbD_rotateLeft_one z (show i < w + 1 by omega) (by omega)]
    simp [inside, below]
  · simp only [BitVec.msb_eq_getLsbD_last (z.rotateLeft 1), getLsbD_rotateLeft_one z (show w + 1 - 1 < w + 1 by omega) (by omega)]
    simp [BitVec.msb_eq_getLsbD_last, pos, pos.ne']

/-- RCR on the operand and CF taken together, CF on top (R310). -/
theorem shiftStep_rcr (pos : 0 < w) (z : BitVec (w + 1)) :
    shiftStep .rcr ⟨z.setWidth w, z.msb⟩ = ⟨(z.rotateRight 1).setWidth w, (z.rotateRight 1).msb⟩ := by
  refine congrArg₂ ShiftVal.mk (BitVec.eq_of_getLsbD_eq fun i inside => ?_) ?_
  · simp only [getLsbD_shiftDown _ _ inside, BitVec.getLsbD_setWidth, getLsbD_rotateRight_one z (show i < w + 1 by omega), BitVec.msb_eq_getLsbD_last]
    by_cases last : i + 1 = w
    · simp [last, inside]
    · have below : i + 1 < w := by omega
      simp [last, inside, inside.ne, below]
  · simp only [BitVec.msb_eq_getLsbD_last (z.rotateRight 1), getLsbD_rotateRight_one z (show w + 1 - 1 < w + 1 by omega)]
    simp [pos]

theorem shiftStep_shl (v : BitVec w) (c : Bool) : shiftStep .shl ⟨v, c⟩ = ⟨v <<< 1, v.msb⟩ := rfl

theorem shiftStep_shr (v : BitVec w) (c : Bool) : shiftStep .shr ⟨v, c⟩ = ⟨v >>> 1, v.getLsbD 0⟩ := rfl

theorem shiftStep_sar (v : BitVec w) (c : Bool) : shiftStep .sar ⟨v, c⟩ = ⟨v.sshiftRight 1, v.getLsbD 0⟩ := by
  refine congrArg₂ ShiftVal.mk (BitVec.eq_of_getLsbD_eq fun i inside => ?_) rfl
  rw [getLsbD_shiftDown _ _ inside, BitVec.getLsbD_sshiftRight, Nat.add_comm 1 i]
  by_cases last : i + 1 = w
  · simp [last, inside]
  · have below : i + 1 < w := by omega
    simp [last, inside, below]

end

/-! ## Every count -/

/-- The operand and CF that the closed form gives after `n` steps. -/
def ShiftOp.valAfter {w : Nat} (op : ShiftOp) (n : Nat) (v : BitVec w) (c : Bool) : ShiftVal w := ⟨(op.after n v c).1, (op.after n v c).2⟩

theorem rotateLeft_zero {w : Nat} (x : BitVec w) : x.rotateLeft 0 = x :=
  BitVec.eq_of_getMsbD_eq fun i inside => by simp [BitVec.getMsbD_rotateLeft, inside, Nat.mod_eq_of_lt inside]

theorem rotateRight_zero {w : Nat} (x : BitVec w) : x.rotateRight 0 = x :=
  BitVec.eq_of_getLsbD_eq fun i inside => by rw [getLsbD_rotateRight_mod x 0 inside, Nat.zero_add, Nat.mod_eq_of_lt inside]

/-- The last of `n + 1` steps. -/
theorem shiftSteps_last {w : Nat} (op : ShiftOp) (n : Nat) (x : ShiftVal w) : shiftSteps op (n + 1) x = shiftStep op (shiftSteps op n x) := by
  induction n generalizing x with
  | zero => rfl
  | succ n ih => exact ih (shiftStep op x)

section
variable {w : Nat} (wide : 1 < w) (op : ShiftOp) (v : BitVec w) (c : Bool)

theorem ShiftOp.after_zero : (op.after 0 v c).1 = v := by
  cases op <;> simp [ShiftOp.after, rotateLeft_zero, rotateRight_zero]

/-- The closed form for no step has the operand, and CF where the next step looks at it: in RCL and RCR. -/
theorem shiftStep_valAfter_zero : shiftStep op (op.valAfter 0 v c) = shiftStep op ⟨v, c⟩ := by
  unfold ShiftOp.valAfter
  rw [op.after_zero]
  cases op with
  | rcl => simp [ShiftOp.after, rotateLeft_zero]
  | rcr => simp [ShiftOp.after, rotateRight_zero]
  | rol | ror | shl | shr | sar => rfl

include wide

/-- The closed form takes one step of the operation from each count to the next. -/
theorem shiftStep_valAfter (n : Nat) : shiftStep op (op.valAfter n v c) = op.valAfter (n + 1) v c := by
  unfold ShiftOp.valAfter
  cases op with
  | rol => rw [ShiftOp.after, shiftStep_rol wide, ShiftOp.after, rotateLeft_add]
  | ror => rw [ShiftOp.after, shiftStep_ror (by omega), ShiftOp.after, rotateRight_add]
  | rcl => rw [ShiftOp.after, shiftStep_rcl (by omega), ShiftOp.after, rotateLeft_add]
  | rcr => rw [ShiftOp.after, shiftStep_rcr (by omega), ShiftOp.after, rotateRight_add]
  | shl =>
    have carry : (v <<< n).msb = (decide (n + 1 ≤ w) && v.getLsbD (w - (n + 1))) := by
      rw [BitVec.msb_eq_getLsbD_last, BitVec.getLsbD_shiftLeft, show w - 1 - n = w - (n + 1) by omega]
      congr 1
      rw [Bool.eq_iff_iff]
      simp
      omega
    rw [ShiftOp.after, shiftStep_shl, ShiftOp.after, BitVec.shiftLeft_add, carry]
  | shr => rw [ShiftOp.after, shiftStep_shr, ShiftOp.after, BitVec.shiftRight_add, BitVec.getLsbD_ushiftRight]; rfl
  | sar => rw [ShiftOp.after, shiftStep_sar, ShiftOp.after, BitVec.sshiftRight_add]; rfl

/-- `n + 1` steps are the closed form for `n + 1` (R306-R313). -/
theorem shiftSteps_succ (n : Nat) : shiftSteps op (n + 1) ⟨v, c⟩ = op.valAfter (n + 1) v c := by
  induction n with
  | zero => exact (shiftStep_valAfter_zero op v c).symm.trans (shiftStep_valAfter wide op v c 0)
  | succ n ih => rw [shiftSteps_last, ih, shiftStep_valAfter wide]

theorem shiftSteps_v (n : Nat) : (shiftSteps op n ⟨v, c⟩).v = (op.after n v c).1 := by
  cases n with
  | zero => exact (op.after_zero v c).symm
  | succ n => rw [shiftSteps_succ wide]; rfl

end

/-! ## Flags (R314) -/

/-- CF and OF after `n + 1` steps: OF is the rule's for one step and undefined for more, with a silicon value. -/
def State.shiftCarry (s : State) (n : Nat) (carry overflow : Bool) : State :=
  if n = 0 then (s.setFlag .cf carry).setFlag .ovf overflow else (s.setFlag .cf carry).undefFlag .ovf (some overflow)

theorem State.shiftCarry_spec (s : State) (n : Nat) (carry overflow : Bool) :
    (s.shiftCarry n carry overflow).flag .cf = carry ∧
      (n + 1 = 1 ∨ s.cfg.undefFlags = .silicon → (s.shiftCarry n carry overflow).flag .ovf = overflow) ∧
      ∀ fs : List Flag, .cf ∈ fs → .ovf ∈ fs → ChangesFlags s (s.shiftCarry n carry overflow) fs := by
  unfold State.shiftCarry
  by_cases single : n = 0
  · simp only [if_pos single]
    exact ⟨by simp, fun _ => by simp, fun fs cf ovf => (ChangesFlags.setFlag s .cf _ cf).andThen (.setFlag _ .ovf _ ovf)⟩
  · simp only [if_neg single]
    refine ⟨by rw [State.undefFlag_other _ _ (by decide)]; simp, fun defined => ?_,
      fun fs cf ovf => (ChangesFlags.setFlag s .cf _ cf).andThen (.undefFlag _ .ovf _ ovf)⟩
    have silicon : (s.setFlag .cf carry).cfg.undefFlags = .silicon := defined.resolve_left (by omega)
    rw [State.undefFlag_silicon silicon]
    simp

/-- A shift sets SF, ZF and PF from its result and leaves AF undefined; a rotate does neither (R307-R313). -/
def ShiftOp.resultFlags {w : Nat} (op : ShiftOp) (r : BitVec w) (s : State) : State := if op.isShift then (s.szp r).undefFlag .af none else s

theorem ShiftOp.resultFlags_spec {w : Nat} (op : ShiftOp) (r : BitVec w) (s : State) :
    (op.resultFlags r s).flag .cf = s.flag .cf ∧ (op.resultFlags r s).flag .ovf = s.flag .ovf ∧
      (op = .shl ∨ op = .shr ∨ op = .sar → ResultFlags (op.resultFlags r s) r) ∧ ChangesFlags s (op.resultFlags r s) op.changes := by
  cases op with
  | rol | ror | rcl | rcr => exact ⟨rfl, rfl, by simp, .refl s, .refl s _⟩
  | shl | shr | sar =>
    have kept {f : Flag} (other : f ≠ .af) : ((s.szp r).undefFlag .af none).flag f = (s.szp r).flag f := State.undefFlag_other _ none other
    have result := (s.szp_flags r).undefList (undefined := [.af]) (by decide)
    exact ⟨(kept (by decide)).trans (s.szp_flag_other r (by decide)), (kept (by decide)).trans (s.szp_flag_other r (by decide)), fun _ => result,
      (ChangesFlags.szp s r).andThen (.undefFlag _ .af none (by decide))⟩

theorem ShiftOp.carry_mem_changes (op : ShiftOp) : .cf ∈ op.changes ∧ .ovf ∈ op.changes := by
  cases op <;> decide

/-- The flags after `n + 1` steps with the result `r`. -/
theorem ShiftOp.flags_spec {w : Nat} (op : ShiftOp) (s : State) (n : Nat) (r : BitVec w) (carry overflow : Bool) :
    let u := op.resultFlags r (s.shiftCarry n carry overflow)
    u.flag .cf = carry ∧ (n + 1 = 1 ∨ s.cfg.undefFlags = .silicon → u.flag .ovf = overflow) ∧
      (op = .shl ∨ op = .shr ∨ op = .sar → ResultFlags u r) ∧ ChangesFlags s u op.changes := by
  obtain ⟨cf, ovf, changed⟩ := s.shiftCarry_spec n carry overflow
  obtain ⟨cfKept, ovfKept, result, rest⟩ := op.resultFlags_spec r (s.shiftCarry n carry overflow)
  obtain ⟨cfMay, ovfMay⟩ := op.carry_mem_changes
  exact ⟨cfKept.trans cf, fun defined => ovfKept.trans (ovf defined), result, (changed _ cfMay ovfMay).andThen rest⟩

theorem shiftOf_eq {w : Nat} (op : ShiftOp) (x : ShiftVal w) : shiftOf op x = op.overflow x.v (shiftStep op x).v (shiftStep op x).cf := by
  cases op <;> rfl

theorem Shifted.congr {w : Nat} {op : ShiftOp} {s t u : State} {n : Nat} {v : BitVec w} (same : ∀ f, t.flag f = u.flag f) (h : Shifted op s u n v) :
    Shifted op s t n v :=
  ⟨(same .cf).trans h.cf, fun defined => (same .ovf).trans (h.ovf defined), fun shift => (h.result shift).congr fun f _ => same f⟩

section
variable {w : Nat} (wide : 1 < w) (op : ShiftOp) (v : BitVec w) (s : State)
include wide

/-- A shift by `n + 1`: the closed form's operand, then CF and OF, then the result flags of a shift. -/
theorem shiftBy_succ (n : Nat) :
    let before := (op.after n v (s.flag .cf)).1
    let y := op.valAfter (n + 1) v (s.flag .cf)
    shiftBy op (n + 1) v s = (some y.v, op.resultFlags y.v (s.shiftCarry n y.cf (op.overflow before y.v y.cf))) := by
  intro before y
  have last : shiftStep op (shiftSteps op n ⟨v, s.flag .cf⟩) = y := by rw [← shiftSteps_last, shiftSteps_succ wide]
  simp only [shiftBy, shiftOf_eq, last, shiftSteps_v wide]
  rfl

/-- What a count other than 0 writes, and the flags it leaves. -/
theorem shiftBy_spec {n : Nat} (nonzero : n ≠ 0) :
    (shiftBy op n v s).1 = some (op.after n v (s.flag .cf)).1 ∧ Shifted op s (shiftBy op n v s).2 n v ∧ ChangesFlags s (shiftBy op n v s).2 op.changes := by
  cases n with
  | zero => exact absurd rfl nonzero
  | succ n =>
    let before := (op.after n v (s.flag .cf)).1
    let y := op.valAfter (n + 1) v (s.flag .cf)
    obtain ⟨cf, ovf, result, changed⟩ := op.flags_spec s n y.v y.cf (op.overflow before y.v y.cf)
    rw [shiftBy_succ wide]
    exact ⟨rfl, ⟨cf, ovf, result⟩, changed⟩

end

section
variable {s : State} (ready : s.Ready) (op : ShiftOp) {n : Nat}
include ready

theorem State.shift8_spec (nonzero : n ≠ 0) {e : Rm8} (plain : s.plainLoc8 (s.locate e)) :
    let t := s.unary8 (shiftBy op n) e
    t.valueAt8 (s.locate e) = s.stored8 (s.locate e) (op.after n (s.valueAt8 (s.locate e)) (s.flag .cf)).1 ∧
      Shifted op s t n (s.valueAt8 (s.locate e)) ∧ Frame s t (dest8 (s.locate e) op.changes) := by
  obtain ⟨written, flags, changed⟩ := shiftBy_spec (by decide) op (s.valueAt8 (s.locate e)) s nonzero
  obtain ⟨value, same, frame⟩ := State.unary8_spec ready plain (Prod.ext written rfl) changed
  exact ⟨value, flags.congr same, frame⟩

theorem State.shift16_spec (nonzero : n ≠ 0) {e : Rm16} (plain : s.plainLoc16 (s.locate e)) :
    let t := s.unary16 (shiftBy op n) e
    t.valueAt16 (s.locate e) = s.stored16 (s.locate e) (op.after n (s.valueAt16 (s.locate e)) (s.flag .cf)).1 ∧
      Shifted op s t n (s.valueAt16 (s.locate e)) ∧ Frame s t (dest16 (s.locate e) op.changes) := by
  obtain ⟨written, flags, changed⟩ := shiftBy_spec (by decide) op (s.valueAt16 (s.locate e)) s nonzero
  obtain ⟨value, same, frame⟩ := State.unary16_spec ready plain (Prod.ext written rfl) changed
  exact ⟨value, flags.congr same, frame⟩

/-- A count of 0 writes nothing (R306). -/
theorem State.shift8_zero {e : Rm8} (plain : s.plainLoc8 (s.locate e)) : s.unary8 (shiftBy op 0) e = s :=
  State.unary8_plain ready.direct (shiftBy op 0) plain (.refl s)

theorem State.shift16_zero {e : Rm16} (plain : s.plainLoc16 (s.locate e)) : s.unary16 (shiftBy op 0) e = s :=
  State.unary16_plain ready.direct (shiftBy op 0) plain (.refl s)

end

section
variable (op : ShiftOp) (c : Count) (s : State)

theorem exec_shiftEb (e : Rm8) : exec (op.eb c e) s = .next (s.unary8 (shiftBy op (countOf s c)) e) := by cases op <;> rfl

theorem exec_shiftEv (e : Rm16) : exec (op.ev c e) s = .next (s.unary16 (shiftBy op (countOf s c)) e) := by cases op <;> rfl

end

/-- Settles O18: each form is the operation by its count; a count of 1 to 255 has the closed form. -/
theorem shiftForms : Obligations.ShiftForms := by
  unfold Obligations.ShiftForms
  refine ⟨fun op s c ready nonzero => ⟨fun e plain => ?eb, fun e plain => ?ev⟩, fun op s ready zero => ?zero⟩
  case eb => exact ⟨_, exec_shiftEb op c s e, State.shift8_spec ready op nonzero plain⟩
  case ev => exact ⟨_, exec_shiftEv op c s e, State.shift16_spec ready op nonzero plain⟩
  case zero =>
    have count : countOf s .cl = 0 := congrArg BitVec.toNat zero
    refine ⟨fun e plain => ?_, fun e plain => ?_⟩
    · rw [exec_shiftEb, count, State.shift8_zero ready op plain]
    · rw [exec_shiftEv, count, State.shift16_zero ready op plain]

end Sys2Proof.Machine

/-!
O34. One iteration of a string instruction is its accesses, its flags, and the moves of SI and DI.
-/

namespace Sys2Proof.Machine

/-- Without a repeat prefix a string instruction is one iteration (R330). -/
theorem State.stringOp_once {s : State} (plain : s.pfx.rep = none) (compares : Bool) (iter : State → State) : s.stringOp compares iter = iter s := by
  simp only [State.stringOp, plain]

theorem State.delta_byte (s : State) : s.delta .byte = if s.flag .df then -1 else 1 := by simp [State.delta]

theorem State.delta_word (s : State) : s.delta .word = if s.flag .df then -2 else 2 := by simp [State.delta]

theorem State.advanceDi_flag (s : State) (w : Width) (f : Flag) : (s.advanceDi w).flag f = s.flag f := rfl

theorem State.advanceBoth_flag (s : State) (w : Width) (f : Flag) : ((s.advanceSi w).advanceDi w).flag f = s.flag f := rfl

section
variable {s u : State} {d : Dests} (frame : Frame s u d) (w : Width) (df : u.flag .df = s.flag .df)
include frame df

/-- SI moves after what `d` names has changed, by the DF of before (R330). -/
theorem State.advanceSi_spec (si : u.reg16 .si = s.reg16 .si) :
    (u.advanceSi w).reg16 .si = s.reg16 .si + s.delta w ∧ Frame s (u.advanceSi w) { d with words := .si :: d.words } := by
  refine ⟨?_, (frame.addWord .si).andThen (Frame.setReg16 u .si _ (by simp))⟩
  simp [State.advanceSi, State.delta, si, df]

/-- DI moves after what `d` names has changed, by the DF of before (R330). -/
theorem State.advanceDi_spec (di : u.reg16 .di = s.reg16 .di) :
    (u.advanceDi w).reg16 .di = s.reg16 .di + s.delta w ∧ Frame s (u.advanceDi w) { d with words := .di :: d.words } := by
  refine ⟨?_, (frame.addWord .di).andThen (Frame.setReg16 u .di _ (by simp))⟩
  simp [State.advanceDi, State.delta, di, df]

/-- SI and DI move after what `d` names has changed, by the DF of before (R330). -/
theorem State.advanceBoth_spec (regs : u.regs = s.regs) :
    ((u.advanceSi w).advanceDi w).reg16 .si = s.reg16 .si + s.delta w ∧ ((u.advanceSi w).advanceDi w).reg16 .di = s.reg16 .di + s.delta w ∧
      Frame s ((u.advanceSi w).advanceDi w) { d with words := .si :: .di :: d.words } := by
  have reg (r : Reg16) : u.reg16 r = s.reg16 r := congrArg (·.get r) regs
  obtain ⟨si, moved⟩ := State.advanceSi_spec (frame.addWord .di) w df (reg .si)
  refine ⟨?_, ?_, moved.andThen (Frame.setReg16 _ .di _ (by simp))⟩
  · rw [State.advanceDi, State.reg16_setReg16, if_neg nofun, si]
  · simp [State.advanceDi, State.advanceSi, State.delta, reg, df]

end

section
variable (s : State)

theorem State.subFlags_df {w : Nat} (a b : BitVec w) : (s.subFlags a b false).2.flag .df = s.flag .df :=
  (ChangesFlags.subFlags s a b false).frame.regs.flags .df (by decide)

/-- The flags of a comparison (R251). -/
theorem State.compared8 (a b : Byte) : DiffFlags (s.subFlags a b false).2 a b false ∧ ResultFlags (s.subFlags a b false).2 (a - b) :=
  ⟨s.subFlags_flags8 a b false, by simpa [carryIn_false] using s.subFlags_szp a b false⟩

theorem State.compared16 (a b : Word) : DiffFlags (s.subFlags a b false).2 a b false ∧ ResultFlags (s.subFlags a b false).2 (a - b) :=
  ⟨s.subFlags_flags16 a b false, by simpa [carryIn_false] using s.subFlags_szp a b false⟩

end

section
variable {s : State} (direct : s.Direct)
include direct

theorem State.movs_byte (src : s.plainAt (s.operandSeg .ds) (s.reg16 .si)) (dst : s.plainAt (s.seg .es) (s.reg16 .di)) :
    State.movs .byte s =
      ((s.poke (s.seg .es) (s.reg16 .di) (s.byteAt (s.operandSeg .ds) (s.reg16 .si))).advanceSi .byte).advanceDi .byte := by
  simp only [State.movs, State.rdB_plain direct src, State.wrB_plain direct dst]

theorem State.movs_word (src : s.plainWordAt (s.operandSeg .ds) (s.reg16 .si)) (dst : s.plainWordAt (s.seg .es) (s.reg16 .di)) :
    State.movs .word s =
      ((s.pokeWord (s.seg .es) (s.reg16 .di) (s.wordAt (s.operandSeg .ds) (s.reg16 .si))).advanceSi .word).advanceDi .word := by
  simp only [State.movs, State.rdW_plain direct src, State.wrW_plain direct dst]

theorem State.cmps_byte (src : s.plainAt (s.operandSeg .ds) (s.reg16 .si)) (dst : s.plainAt (s.seg .es) (s.reg16 .di)) :
    State.cmps .byte s = ((s.subFlags (s.byteAt (s.operandSeg .ds) (s.reg16 .si)) (s.byteAt (s.seg .es) (s.reg16 .di)) false).2.advanceSi
      .byte).advanceDi .byte := by
  simp only [State.cmps, State.rdB_plain direct src, State.rdB_plain direct dst]

theorem State.cmps_word (src : s.plainWordAt (s.operandSeg .ds) (s.reg16 .si)) (dst : s.plainWordAt (s.seg .es) (s.reg16 .di)) :
    State.cmps .word s = ((s.subFlags (s.wordAt (s.operandSeg .ds) (s.reg16 .si)) (s.wordAt (s.seg .es) (s.reg16 .di)) false).2.advanceSi
      .word).advanceDi .word := by
  simp only [State.cmps, State.rdW_plain direct src, State.rdW_plain direct dst]

theorem State.scas_byte (dst : s.plainAt (s.seg .es) (s.reg16 .di)) :
    State.scas .byte s = (s.subFlags (s.reg8 .al) (s.byteAt (s.seg .es) (s.reg16 .di)) false).2.advanceDi .byte := by
  simp only [State.scas, State.rdB_plain direct dst]

theorem State.scas_word (dst : s.plainWordAt (s.seg .es) (s.reg16 .di)) :
    State.scas .word s = (s.subFlags (s.reg16 .ax) (s.wordAt (s.seg .es) (s.reg16 .di)) false).2.advanceDi .word := by
  simp only [State.scas, State.rdW_plain direct dst]

theorem State.stos_byte (dst : s.plainAt (s.seg .es) (s.reg16 .di)) :
    State.stos .byte s = (s.poke (s.seg .es) (s.reg16 .di) (s.reg8 .al)).advanceDi .byte := by
  simp only [State.stos, State.wrB_plain direct dst]

theorem State.stos_word (dst : s.plainWordAt (s.seg .es) (s.reg16 .di)) :
    State.stos .word s = (s.pokeWord (s.seg .es) (s.reg16 .di) (s.reg16 .ax)).advanceDi .word := by
  simp only [State.stos, State.wrW_plain direct dst]

end

/-- Settles O34: each iteration by its accesses to RAM or ROM, then by what the moves of SI and DI add. -/
theorem stringOnce : Obligations.StringOnce := by
  unfold Obligations.StringOnce
  intro s ready rep g es si di by_
  have direct := ready.direct
  have byte : s.delta .byte = by_ 1 := s.delta_byte
  have word : s.delta .word = by_ 2 := s.delta_word
  have once (compares : Bool) {iter : State → State} {t : State} (e : iter s = t) :
      Host.Outcome.next (s.stringOp compares iter) = (.next t : Res) := congrArg _ ((State.stringOp_once rep compares iter).trans e)
  have poked (v : Byte) : (s.poke es di v).byteAt es di = s.storedByte es di v := State.byteAt_poke ready.mem es di v
  have pokedWord (v : Word) : (s.pokeWord es di v).wordAt es di = s.storedWord es di v := State.wordAt_pokeWord ready.mem es di v
  have pokeFrame (v : Byte) : Frame s (s.poke es di v) { mem := [addrOf es di] } := Frame.poke s es di v (by simp)
  have pokeWordFrame (v : Word) : Frame s (s.pokeWord es di v) { mem := wordAddrs es di } := Frame.pokeWord s es di v fun _ m => m
  have flagFrame {w : Nat} (a b : BitVec w) : Frame s (s.subFlags a b false).2 { flags := statusFlags } := (ChangesFlags.subFlags s a b false).frame
  rw [← byte, ← word]
  refine ⟨?movsb, ?movsw, ?cmpsb, ?cmpsw, ?scasb, ?scasw, ?lodsb, ?lodsw, ?stosb, ?stosw⟩
  case movsb => exact fun src dst => ⟨_, once _ (State.movs_byte direct src dst), poked _, State.advanceBoth_spec (pokeFrame _) .byte rfl rfl⟩
  case movsw => exact fun src dst => ⟨_, once _ (State.movs_word direct src dst), pokedWord _, State.advanceBoth_spec (pokeWordFrame _) .word rfl rfl⟩
  case cmpsb =>
    intro src dst
    obtain ⟨diff, result⟩ := s.compared8 (s.byteAt g si) (s.byteAt es di)
    exact ⟨_, once _ (State.cmps_byte direct src dst), diff.congr (State.advanceBoth_flag _ .byte), result.congr fun f _ => State.advanceBoth_flag _ .byte f,
      State.advanceBoth_spec (flagFrame _ _) .byte (s.subFlags_df _ _) rfl⟩
  case cmpsw =>
    intro src dst
    obtain ⟨diff, result⟩ := s.compared16 (s.wordAt g si) (s.wordAt es di)
    exact ⟨_, once _ (State.cmps_word direct src dst), diff.congr (State.advanceBoth_flag _ .word), result.congr fun f _ => State.advanceBoth_flag _ .word f,
      State.advanceBoth_spec (flagFrame _ _) .word (s.subFlags_df _ _) rfl⟩
  case scasb =>
    intro dst
    obtain ⟨diff, result⟩ := s.compared8 (s.reg8 .al) (s.byteAt es di)
    exact ⟨_, once _ (State.scas_byte direct dst), diff.congr (State.advanceDi_flag _ .byte), result.congr fun f _ => State.advanceDi_flag _ .byte f,
      State.advanceDi_spec (flagFrame _ _) .byte (s.subFlags_df _ _) rfl⟩
  case scasw =>
    intro dst
    obtain ⟨diff, result⟩ := s.compared16 (s.reg16 .ax) (s.wordAt es di)
    exact ⟨_, once _ (State.scas_word direct dst), diff.congr (State.advanceDi_flag _ .word), result.congr fun f _ => State.advanceDi_flag _ .word f,
      State.advanceDi_spec (flagFrame _ _) .word (s.subFlags_df _ _) rfl⟩
  case lodsb =>
    intro src
    obtain ⟨loaded, frame⟩ := State.load8_spec (l := .mem g si) ready src .al
    have si' : (s.load8 .al (.mem g si)).reg16 .si = si := frame.regs.words .si (by simp) (by simp [Reg8.word])
    exact ⟨_, once _ rfl, (State.reg8_setReg16_other _ .si .al _ nofun).trans loaded, State.advanceSi_spec frame .byte (frame.regs.flags .df (by simp)) si'⟩
  case lodsw =>
    intro src
    obtain ⟨loaded, frame⟩ := State.load16_spec (l := .mem g si) ready src .ax
    have si' : (s.load16 .ax (.mem g si)).reg16 .si = si := frame.regs.words .si (by simp) (by simp)
    exact ⟨_, once _ rfl, (State.reg16_setReg16 _ .si .ax _).trans loaded, State.advanceSi_spec frame .word (frame.regs.flags .df (by simp)) si'⟩
  case stosb => exact fun dst => ⟨_, once _ (State.stos_byte direct dst), poked _, State.advanceDi_spec (pokeFrame _) .byte rfl rfl⟩
  case stosw => exact fun dst => ⟨_, once _ (State.stos_word direct dst), pokedWord _, State.advanceDi_spec (pokeWordFrame _) .word rfl rfl⟩

end Sys2Proof.Machine

/-!
An iteration of a string instruction uses of the prefix latch only the segment override: with another repeat prefix it does the same (R330, R331).
-/

namespace Sys2Proof.Machine

/-- The machine with the prefix latch `p`. -/
def State.withPfx (s : State) (p : Pfx) : State := { s with pfx := p }

section
variable (s : State) (p : Pfx)

theorem State.openBusByte_withPfx (known : Bool) :
    (s.withPfx p).openBusByte known = ((s.openBusByte known).1, (s.openBusByte known).2.withPfx p) := by
  simp only [State.openBusByte, State.withPfx]
  cases s.cfg.openBus with
  | const v => rfl
  | lastBusValue => cases known <;> rfl

theorem State.readValue_withPfx (known : Bool) (sp : Space) (a : PAddr) :
    (s.withPfx p).readValue known sp a = ((s.readValue known sp a).1, (s.readValue known sp a).2.withPfx p) := by
  have openBus := s.openBusByte_withPfx p known
  simp only [State.readValue, State.withPfx] at openBus ⊢
  cases sp with
  | memory =>
    cases s.cfg.memKind a with
    | ram | rom | mmio => rfl
    | none => exact openBus
  | io =>
    cases s.cfg.portKind a with
    | io => rfl
    | none => exact openBus
  | inta => cases s.intr.intaVector.or s.devtm.vector <;> rfl
  | halt => rfl

theorem State.record_withPfx (sp : Space) (d : Dir) (a : PAddr) (v : Byte) : (s.withPfx p).record sp d a v = (s.record sp d a v).withPfx p := by
  simp only [State.record_eq]; rfl

theorem State.storeValue_withPfx (sp : Space) (a : PAddr) (v : Byte) : (s.withPfx p).storeValue sp a v = (s.storeValue sp a v).withPfx p := by
  cases sp with
  | memory =>
    simp only [State.storeValue, State.withPfx]
    cases s.cfg.memKind a <;> rfl
  | io | inta | halt => rfl

theorem State.portTake_withPfx (q : PortReq) : (s.withPfx p).portTake q = ((s.portTake q).1, (s.portTake q).2.withPfx p) := by
  simp only [State.portTake, State.withPfx]
  cases s.port.pending with
  | some r => rfl
  | none => cases s.port.answers <;> rfl

theorem State.directRead_withPfx (sp : Space) (a : PAddr) :
    (s.withPfx p).directRead sp a = ((s.directRead sp a).1, (s.directRead sp a).2.withPfx p) := by
  simp only [State.directRead, State.readValue_withPfx, State.record_withPfx]

theorem State.directWrite_withPfx (sp : Space) (a : PAddr) (v : Byte) : (s.withPfx p).directWrite sp a v = (s.directWrite sp a v).withPfx p := by
  have stale : (s.withPfx p).noteStale a = (s.noteStale a).withPfx p := rfl
  simp only [State.directWrite, stale, ← State.record_withPfx, ← State.storeValue_withPfx]
  cases sp == .memory <;> rfl

theorem State.busRead_withPfx (sp : Space) (a : PAddr) :
    (s.withPfx p).busRead sp a = ((s.busRead sp a).1, (s.busRead sp a).2.withPfx p) := by
  have replay : (s.withPfx p).port = s.port := rfl
  simp only [State.busRead, State.portTake_withPfx, State.directRead_withPfx, replay]
  split
  · rcases s.portTake (.access ⟨sp, .read, a, 0#8⟩) with ⟨_ | _ | _, t⟩ <;> rfl
  · rfl

theorem State.busWrite_withPfx (sp : Space) (a : PAddr) (v : Byte) : (s.withPfx p).busWrite sp a v = (s.busWrite sp a v).withPfx p := by
  have replay : (s.withPfx p).port = s.port := rfl
  simp only [State.busWrite, State.portTake_withPfx, State.directWrite_withPfx, replay]
  split <;> rfl

theorem State.noteOdd_withPfx (o : Word) : (s.withPfx p).noteOdd o = (s.noteOdd o).withPfx p := by
  have replay : (s.withPfx p).port = s.port := rfl
  simp only [State.noteOdd, replay]
  split <;> rfl

@[simp] theorem State.rdB_withPfx (g o : Word) : (s.withPfx p).rdB g o = ((s.rdB g o).1, (s.rdB g o).2.withPfx p) := s.busRead_withPfx p _ _

@[simp] theorem State.rdW_withPfx (g o : Word) : (s.withPfx p).rdW g o = ((s.rdW g o).1, (s.rdW g o).2.withPfx p) := by
  simp only [State.rdW, State.noteOdd_withPfx, State.rdB_withPfx]

@[simp] theorem State.wrB_withPfx (g o : Word) (v : Byte) : (s.withPfx p).wrB g o v = (s.wrB g o v).withPfx p := s.busWrite_withPfx p _ _ _

@[simp] theorem State.wrW_withPfx (g o v : Word) : (s.withPfx p).wrW g o v = (s.wrW g o v).withPfx p := by
  simp only [State.wrW, State.noteOdd_withPfx, State.wrB_withPfx]

@[simp] theorem State.withPfx_reg16 (r : Reg16) : (s.withPfx p).reg16 r = s.reg16 r := rfl
@[simp] theorem State.withPfx_reg8 (r : Reg8) : (s.withPfx p).reg8 r = s.reg8 r := rfl
@[simp] theorem State.withPfx_seg (r : SReg) : (s.withPfx p).seg r = s.seg r := rfl
@[simp] theorem State.setReg16_withPfx (r : Reg16) (v : Word) : (s.withPfx p).setReg16 r v = (s.setReg16 r v).withPfx p := rfl
@[simp] theorem State.setReg8_withPfx (r : Reg8) (v : Byte) : (s.withPfx p).setReg8 r v = (s.setReg8 r v).withPfx p := rfl
@[simp] theorem State.advanceSi_withPfx (w : Width) : (s.withPfx p).advanceSi w = (s.advanceSi w).withPfx p := rfl
@[simp] theorem State.advanceDi_withPfx (w : Width) : (s.withPfx p).advanceDi w = (s.advanceDi w).withPfx p := rfl

theorem State.setFlag_withPfx (f : Flag) (b : Bool) : (s.withPfx p).setFlag f b = (s.setFlag f b).withPfx p := rfl

@[simp] theorem State.subFlags_withPfx {w : Nat} (a b : BitVec w) (c : Bool) :
    ((s.withPfx p).subFlags a b c).2 = (s.subFlags a b c).2.withPfx p := by
  simp only [State.subFlags, State.szp, State.setFlag_withPfx]

theorem State.operandSeg_withPfx {p : Pfx} (same : p.seg = s.pfx.seg) (d : SReg) : (s.withPfx p).operandSeg d = s.operandSeg d :=
  congrArg (fun x : Option SReg => s.seg (x.getD d)) same

end

end Sys2Proof.Machine

/-!
The general registers and the prefix latch through the accesses of an instruction and through DMA and refresh at a recognition point (R97, R463).
-/

namespace Sys2Proof.Machine

/-- `t` has the general registers and the prefix latch of `s`. -/
structure SameRegs (s t : State) : Prop where
  regs : t.regs = s.regs
  pfx : t.pfx = s.pfx

namespace SameRegs

theorem refl (s : State) : SameRegs s s := ⟨rfl, rfl⟩

theorem trans {s t u : State} (h : SameRegs s t) (k : SameRegs t u) : SameRegs s u := ⟨k.regs.trans h.regs, k.pfx.trans h.pfx⟩

theorem reg16 {s t : State} (h : SameRegs s t) (r : Reg16) : t.reg16 r = s.reg16 r := congrArg (·.get r) h.regs

section
variable (s : State)

theorem directRead (sp : Space) (a : PAddr) : SameRegs s (s.directRead sp a).2 := by
  obtain ⟨v, m, e, h⟩ := s.directRead_eq sp a
  rw [h]
  exact ⟨rfl, rfl⟩

theorem directWrite (sp : Space) (a : PAddr) (v : Byte) : SameRegs s (s.directWrite sp a v) := by
  obtain ⟨m, e, st, h, -⟩ := s.directWrite_eq sp a v
  rw [h]
  exact ⟨rfl, rfl⟩

theorem portTake (q : PortReq) : SameRegs s (s.portTake q).2 := by
  obtain ⟨x, p, h, -⟩ := s.portTake_eq q
  rw [h]
  exact ⟨rfl, rfl⟩

theorem busRead (sp : Space) (a : PAddr) : SameRegs s (s.busRead sp a).2 := by
  unfold State.busRead
  split
  · have taken := portTake s (.access ⟨sp, .read, a, 0#8⟩)
    split <;> rename_i answer <;> rw [answer] at taken <;> exact taken
  · exact directRead s sp a

theorem busWrite (sp : Space) (a : PAddr) (v : Byte) : SameRegs s (s.busWrite sp a v) := by
  unfold State.busWrite
  split
  · exact portTake s _
  · exact directWrite s sp a v

theorem noteOdd (o : Word) : SameRegs s (s.noteOdd o) := by
  unfold State.noteOdd
  split <;> exact ⟨rfl, rfl⟩

theorem rdB (g o : Word) : SameRegs s (s.rdB g o).2 := busRead s _ _

theorem rdW (g o : Word) : SameRegs s (s.rdW g o).2 := ((noteOdd s o).trans (rdB _ _ _)).trans (rdB _ _ _)

theorem wrB (g o : Word) (v : Byte) : SameRegs s (s.wrB g o v) := busWrite s _ _ _

theorem wrW (g o v : Word) : SameRegs s (s.wrW g o v) := ((noteOdd s o).trans (wrB _ _ _ _)).trans (wrB _ _ _ _)

theorem sampleInputs : SameRegs s s.sampleInputs := by
  unfold State.sampleInputs
  split <;> exact ⟨rfl, rfl⟩

theorem dmaCycle (r : Option DmaReq) : SameRegs s (s.dmaCycle r) := by
  cases r with
  | none => exact refl s
  | some q =>
    have drawn : SameRegs s s.drawBusByte.2 := ⟨rfl, rfl⟩
    simp only [State.dmaCycle]
    cases q.dir with
    | read => exact directRead s _ _
    | write => exact drawn.trans (directWrite _ _ _ _)

theorem refreshCycle (r : Option PAddr) : SameRegs s (s.refreshCycle r) := by
  cases r with
  | none => exact refl s
  | some a => exact directRead s _ _

/-- What each step of a fold keeps, the fold keeps. -/
theorem foldl {α : Type} {f : State → α → State} (each : ∀ t a, SameRegs t (f t a)) (l : List α) : SameRegs s (l.foldl f s) := by
  induction l generalizing s with
  | nil => exact refl s
  | cons a l ih => exact (each s a).trans (ih _)

theorem serveKind (k : ReqKind) : SameRegs s (s.serveKind k) := by
  cases k with
  | fetch | operand => exact refl s
  | dma =>
    have served := foldl s (f := fun u ch => (u.dmaCycle (s.hostDma ch)).dmaCycle (s.stubDma ch))
      (fun t ch => (dmaCycle t _).trans (dmaCycle _ _)) (List.range s.dmaChannels)
    exact ⟨served.regs, served.pfx⟩
  | refresh =>
    have served := (refreshCycle s s.hostLines.refresh).trans (refreshCycle _ s.devtm.rfq)
    exact ⟨served.regs, served.pfx⟩

theorem serveDma : SameRegs s s.serveDma := by
  unfold State.serveDma
  split
  · exact refl s
  · exact foldl s serveKind _

end

end SameRegs

end Sys2Proof.Machine

/-!
O35, O36. The loop of R331 over any iteration that leaves CX and the latch alone, by its first iteration; the ten string instructions have such iterations.
-/

namespace Sys2Proof.Machine

/-- What the loop of R331 needs of an iteration: of the prefix latch it uses the segment override only, and it leaves the latch and CX alone. -/
structure Iteration (iter : State → State) : Prop where
  calm : ∀ s, Calm s (iter s)
  withPfx : ∀ (s : State) (p : Pfx), p.seg = s.pfx.seg → iter (s.withPfx p) = (iter s).withPfx p
  cx : ∀ s, (iter s).reg16 .cx = s.reg16 .cx

theorem State.advanceSi_cx (s : State) (w : Width) : (s.advanceSi w).reg16 .cx = s.reg16 .cx := by simp [State.advanceSi]

theorem State.advanceDi_cx (s : State) (w : Width) : (s.advanceDi w).reg16 .cx = s.reg16 .cx := by simp [State.advanceDi]

theorem State.subFlags_reg16 {w : Nat} (s : State) (a b : BitVec w) (c : Bool) (r : Reg16) : (s.subFlags a b c).2.reg16 r = s.reg16 r :=
  (FlagsOnly.subFlags s a b c).reg16 r

namespace Iteration
variable (w : Width)

theorem movs : Iteration (State.movs w) where
  calm := Calm.movs w
  withPfx s p same := by cases w <;> simp [State.movs, State.operandSeg_withPfx s same]
  cx s := by
    cases w with
    | byte => simp only [State.movs, State.advanceDi_cx, State.advanceSi_cx, (SameRegs.wrB _ _ _ _).reg16, (SameRegs.rdB _ _ _).reg16]
    | word => simp only [State.movs, State.advanceDi_cx, State.advanceSi_cx, (SameRegs.wrW _ _ _ _).reg16, (SameRegs.rdW _ _ _).reg16]

theorem cmps : Iteration (State.cmps w) where
  calm := Calm.cmps w
  withPfx s p same := by cases w <;> simp [State.cmps, State.operandSeg_withPfx s same]
  cx s := by
    cases w with
    | byte => simp only [State.cmps, State.advanceDi_cx, State.advanceSi_cx, State.subFlags_reg16, (SameRegs.rdB _ _ _).reg16]
    | word => simp only [State.cmps, State.advanceDi_cx, State.advanceSi_cx, State.subFlags_reg16, (SameRegs.rdW _ _ _).reg16]

theorem scas : Iteration (State.scas w) where
  calm := Calm.scas w
  withPfx s p same := by cases w <;> simp [State.scas]
  cx s := by
    cases w with
    | byte => simp only [State.scas, State.advanceDi_cx, State.subFlags_reg16, (SameRegs.rdB _ _ _).reg16]
    | word => simp only [State.scas, State.advanceDi_cx, State.subFlags_reg16, (SameRegs.rdW _ _ _).reg16]

theorem lods : Iteration (State.lods w) where
  calm := Calm.lods w
  withPfx s p same := by cases w <;> simp [State.lods, State.operandSeg_withPfx s same]
  cx s := by
    cases w with
    | byte =>
      have al (u : State) (v : Byte) : (u.setReg8 .al v).reg16 .cx = u.reg16 .cx := State.reg16_setReg8_other u .al .cx v nofun
      simp only [State.lods, State.advanceSi_cx, al, (SameRegs.rdB _ _ _).reg16]
    | word =>
      have ax (u : State) (v : Word) : (u.setReg16 .ax v).reg16 .cx = u.reg16 .cx := State.reg16_setReg16 u .ax .cx v
      simp only [State.lods, State.advanceSi_cx, ax, (SameRegs.rdW _ _ _).reg16]

theorem stos : Iteration (State.stos w) where
  calm := Calm.stos w
  withPfx s p same := by cases w <;> simp [State.stos]
  cx s := by
    cases w with
    | byte => simp only [State.stos, State.advanceDi_cx, (SameRegs.wrB _ _ _ _).reg16]
    | word => simp only [State.stos, State.advanceDi_cx, (SameRegs.wrW _ _ _ _).reg16]

end Iteration

/-- Each string instruction is its iteration, once or in the loop; CMPS and SCAS have the exit test (R331). -/
theorem exec_string {i : Instr} (mem : i ∈ [Instr.movsb, .movsw, .cmpsb, .cmpsw, .stosb, .stosw, .lodsb, .lodsw, .scasb, .scasw]) :
    ∃ iter, Iteration iter ∧ ∀ s, exec i s = .next (s.stringOp (decide (i ∈ [Instr.cmpsb, .cmpsw, .scasb, .scasw])) iter) := by
  simp only [List.mem_cons, List.not_mem_nil, or_false] at mem
  rcases mem with rfl | rfl | rfl | rfl | rfl | rfl | rfl | rfl | rfl | rfl
  · exact ⟨_, .movs .byte, fun _ => rfl⟩
  · exact ⟨_, .movs .word, fun _ => rfl⟩
  · exact ⟨_, .cmps .byte, fun _ => rfl⟩
  · exact ⟨_, .cmps .word, fun _ => rfl⟩
  · exact ⟨_, .stos .byte, fun _ => rfl⟩
  · exact ⟨_, .stos .word, fun _ => rfl⟩
  · exact ⟨_, .lods .byte, fun _ => rfl⟩
  · exact ⟨_, .lods .word, fun _ => rfl⟩
  · exact ⟨_, .scas .byte, fun _ => rfl⟩
  · exact ⟨_, .scas .word, fun _ => rfl⟩

/-- The machine after one iteration, with CX counted down (R331). -/
def State.counted (s : State) (iter : State → State) : State := (iter s).setReg16 .cx (s.reg16 .cx - 1)

/-- The iteration with CX = 1 is the last. -/
theorem State.counted_cx_zero (s : State) (iter : State → State) : ((s.counted iter).reg16 .cx == 0) = decide (s.reg16 .cx = 1) := by
  have counted : (s.counted iter).reg16 .cx = s.reg16 .cx - 1 := by simp [State.counted]
  rw [counted, Bool.beq_eq_decide_eq, decide_eq_decide]
  constructor <;> intro h <;> bv_omega

theorem State.portWaits_direct {s : State} (direct : s.Direct) : s.portWaits = false := by
  have direct : s.port.replay = false := direct
  simp [State.portWaits, direct]

/-- The machine at the recognition point between two iterations (logs 16, 17). -/
def State.sampled (s : State) : State := s.sampleInputs.serveDma

theorem State.sampled_sameRegs (s : State) : SameRegs s s.sampled := (SameRegs.sampleInputs s).trans (SameRegs.serveDma _)

/-- A repeated string instruction with CX not 0 has a first iteration. -/
theorem State.stringOp_rep {s : State} {r : Rep} (rep : s.pfx.rep = some r) (nonzero : s.reg16 .cx ≠ 0) {compares : Bool} {iter : State → State} :
    s.stringOp compares iter = State.repLoop compares iter r ((s.reg16 .cx - 1).toNat + 1) s := by
  have count : (s.reg16 .cx).toNat = (s.reg16 .cx - 1).toNat + 1 := by bv_omega
  simp only [State.stringOp, rep, count]

theorem State.poll_direct {s : State} (direct : s.Direct) : s.poll = (s.sampled.pollDecision, s.sampled) := by
  have direct : s.port.replay = false := direct
  simp [State.poll, direct, State.sampled]

/-- With CX = 0 a repeated string instruction does nothing (R331). -/
theorem State.stringOp_zero {s : State} {r : Rep} (rep : s.pfx.rep = some r) (zero : s.reg16 .cx = 0) (compares : Bool) (iter : State → State) :
    s.stringOp compares iter = s := by
  simp only [State.stringOp, rep, zero]
  rfl

namespace Iteration
variable {iter : State → State} (once : Iteration iter) {s : State}
include once

/-- An iteration leaves the latch as it is. -/
theorem keeps_latch : iter s = (iter s).withPfx s.pfx := once.withPfx s s.pfx rfl

/-- The iteration a repeat prefix repeats is the instruction without that prefix. -/
theorem of_unrepeated {u : State} {compares : Bool}
    (run : (.next (State.stringOp { s with pfx := { s.pfx with rep := none } } compares iter) : Res) = .next u) : { u with pfx := s.pfx } = iter s := by
  have unrepeated : State.stringOp { s with pfx := { s.pfx with rep := none } } compares iter = (iter s).withPfx { s.pfx with rep := none } :=
    once.withPfx s { s.pfx with rep := none } rfl
  rw [unrepeated] at run
  cases run
  exact once.keeps_latch.symm

theorem counted_eq : (iter s).setReg16 .cx ((iter s).reg16 .cx - 1) = s.counted iter := by rw [once.cx]; rfl

/-- Nothing that is sampled or served at the point between iterations changes CX or the latch (R463). -/
theorem counted_sampled : (s.counted iter).sampled.reg16 .cx = s.reg16 .cx - 1 ∧ (s.counted iter).sampled.pfx = s.pfx := by
  have same := (s.counted iter).sampled_sameRegs
  have latch : (iter s).pfx = s.pfx := by rw [once.keeps_latch]; rfl
  exact ⟨(same.reg16 .cx).trans (by simp [State.counted]), same.pfx.trans latch⟩

section
variable {compares : Bool} {r : Rep} (rep : s.pfx.rep = some r) (nonzero : s.reg16 .cx ≠ 0)
include rep nonzero

/-- The last iteration: CX has come to 0, or the exit test says so (R331). -/
theorem stringOp_last (last : s.reg16 .cx = 1 ∨ (s.counted iter).repExit compares r = true) : s.stringOp compares iter = s.counted iter := by
  rw [State.stringOp_rep rep nonzero]
  rcases last with one | exit
  · simp only [State.repLoop, once.counted_eq, s.counted_cx_zero, one, decide_true, Bool.or_true, if_true]
  · simp only [State.repLoop, once.counted_eq, exit, Bool.or_true, Bool.true_or, if_true]

variable (direct : s.Direct) (more : s.reg16 .cx ≠ 1) (stays : (s.counted iter).repExit compares r = false)
include direct more stays

/-- Where nothing is recognised after an iteration that is not the last, what follows is the instruction again (R331, R463). -/
theorem stringOp_go (go : (s.counted iter).sampled.pollDecision = .go) : s.stringOp compares iter = (s.counted iter).sampled.stringOp compares iter := by
  have after : (s.counted iter).Direct := (once.calm s).replay.trans direct
  obtain ⟨cx, latch⟩ := once.counted_sampled (s := s)
  have again : (s.counted iter).sampled.stringOp compares iter =
      State.repLoop compares iter r (s.reg16 .cx - 1).toNat (s.counted iter).sampled := by simp only [State.stringOp, latch, rep, cx]
  rw [State.stringOp_rep rep nonzero, again]
  simp only [State.repLoop, once.counted_eq, State.portWaits_direct after, stays, s.counted_cx_zero, more, decide_false, Bool.or_self,
    Bool.false_eq_true, if_false, State.poll_direct after, go]

/-- An event that is recognised there interrupts the instruction (R337, R463). -/
theorem stringOp_take {ev : Event} (take : (s.counted iter).sampled.pollDecision = .take ev) :
    s.stringOp compares iter = (s.counted iter).sampled.interruptRep ev := by
  have after : (s.counted iter).Direct := (once.calm s).replay.trans direct
  rw [State.stringOp_rep rep nonzero]
  simp only [State.repLoop, once.counted_eq, State.portWaits_direct after, stays, s.counted_cx_zero, more, decide_false, Bool.or_self,
    Bool.false_eq_true, if_false, State.poll_direct after, take]

end

end Iteration

/-- What the repeated string instruction `i` is, from what one iteration `u` of it is. -/
theorem exec_repeated {i : Instr} {s u : State} (mem : i ∈ [Instr.movsb, .movsw, .cmpsb, .cmpsw, .stosb, .stosw, .lodsb, .lodsw, .scasb, .scasw])
    (run : exec i { s with pfx := { s.pfx with rep := none } } = .next u) :
    ∃ iter, Iteration iter ∧ (∀ s, exec i s = .next (s.stringOp (decide (i ∈ [Instr.cmpsb, .cmpsw, .scasb, .scasw])) iter)) ∧
      { u with pfx := s.pfx }.setReg16 .cx (s.reg16 .cx - 1) = s.counted iter := by
  obtain ⟨iter, once, meaning⟩ := exec_string mem
  rw [meaning] at run
  exact ⟨iter, once, meaning, congrArg (·.setReg16 .cx (s.reg16 .cx - 1)) (once.of_unrepeated run)⟩

/-- Settles O35: the cases of CX and of the exit test decide the first iteration of the loop. -/
theorem repeatLoop : Obligations.RepeatLoop := by
  unfold Obligations.RepeatLoop
  intro i s u r mem direct rep run compares t ends p
  obtain ⟨iter, once, meaning, (counted : t = s.counted iter)⟩ := exec_repeated mem run
  have exit : (s.counted iter).repExit compares r = ends := by rw [← counted]; cases r <;> rfl
  have point : (s.counted iter).sampled = p := by rw [← counted]; rfl
  rw [meaning, meaning, counted, ← point]
  refine ⟨fun zero => ?_, fun nonzero last => ?_, fun nonzero more stays go => ?_⟩
  · rw [State.stringOp_zero rep zero]
  · rw [once.stringOp_last rep nonzero (exit ▸ last)]
  · rw [once.stringOp_go rep nonzero direct more (exit.trans stays) go]

/-- Settles O36: the recognition point takes NMI, and what follows the meaning makes its entry the next step (R461; log 20). -/
theorem repeatInterrupted : Obligations.RepeatInterrupted := by
  unfold Obligations.RepeatInterrupted
  intro i s u r o mem direct rep prefixOffset run nonzero more compares t ends p stays running latched q
  obtain ⟨iter, once, meaning, (counted : t = s.counted iter)⟩ := exec_repeated mem run
  have exit : (s.counted iter).repExit compares r = ends := by rw [← counted]; cases r <;> rfl
  have point : (s.counted iter).sampled = p := by rw [← counted]; rfl
  have take : p.pollDecision = .take .nmi := by simp [State.pollDecision, running, latched]
  have last : p.pfx.last = some o := by rw [← point, (once.counted_sampled (s := s)).2, prefixOffset]
  have interrupted : p.interruptRep .nmi = q := by simp only [State.interruptRep, last]; rfl
  refine ⟨?_, fun awake wf plain => ?_⟩
  · rw [meaning, once.stringOp_take rep nonzero direct more (exit.trans stays) (point ▸ take), point, interrupted]
  · have ends : q.finish = { q.endBoundary with pfx := Pfx.clear } := State.finish_interrupted awake nofun
    have direct : State.Direct { q.endBoundary with pfx := Pfx.clear, entry := none, port := Port.direct } := rfl
    rw [ends]
    exact ⟨_, rfl, State.raise_spec direct wf 2#8 o ⟨plain.first, plain.second, plain.third, plain.offset, plain.segment⟩⟩

end Sys2Proof.Machine

/-!
O37. A jump adds nothing to a frame but what redirecting control adds (R350); a target from memory is read first (R354, R355).
-/

namespace Sys2Proof.Machine

section
variable {s : State} (ready : s.Ready)
include ready

theorem State.jumpOperand_plain {e : Rm16} (plain : s.plainLoc16 (s.locate e)) : s.jumpOperand e = s.jump (s.valueAt16 (s.locate e)) := by
  simp only [State.jumpOperand, State.read16_plain ready.direct plain]

theorem State.jumpFar_plain {ea : Ea} (offset : s.plainWordAt (s.operandSeg (defaultSeg ea)) (s.eaOffset ea))
    (segment : s.plainWordAt (s.operandSeg (defaultSeg ea)) (s.eaOffset ea + 2)) :
    s.jumpFar ea = s.farJump (s.wordAt (s.operandSeg (defaultSeg ea)) (s.eaOffset ea + 2)) (s.wordAt (s.operandSeg (defaultSeg ea)) (s.eaOffset ea)) := by
  simp only [State.jumpFar, State.rdFar_plain ready.direct offset segment]

end

/-- Settles O37: each form is a near or a far jump to the target it names. -/
theorem jumps : Obligations.Jumps := by
  unfold Obligations.Jumps
  intro s ready
  have near (target : Word) : JumpFrame s (s.jump target) {} target := .jump (.refl s {})
  have far (sel target : Word) : (s.farJump sel target).seg .cs = sel ∧ JumpFrame s (s.farJump sel target) { segs := [.cs] } target :=
    ⟨s.farJump_cs sel target, .farJump (.refl s _) (by simp)⟩
  refine ⟨fun disp => ⟨_, rfl, near _⟩, fun disp => ⟨_, rfl, near _⟩, fun off sel => ⟨_, rfl, far sel off⟩, fun e plain => ⟨_, rfl, ?ev⟩, ?mp⟩
  case ev =>
    rw [State.jumpOperand_plain ready plain]
    exact near _
  case mp =>
    intro ea g o offset segment
    refine ⟨_, rfl, ?_⟩
    rw [State.jumpFar_plain ready offset segment]
    exact far _ _

end Sys2Proof.Machine

/-!
O38. A call is its pushes and then a jump (R356, R357); an operand is read before the pushes (R358, R359).
-/

namespace Sys2Proof.Machine

/-- A frame still holds where one more segment register may change. -/
theorem Frame.addSeg {s t : State} {d : Dests} (h : Frame s t d) (r : SReg) : Frame s t { d with segs := r :: d.segs } :=
  h.mono ⟨fun _ => id, fun _ => .inl, fun _ => List.mem_cons_of_mem r, fun _ => id, fun _ => id⟩

section
variable {s : State} (ready : s.Ready)
include ready

/-- CALL near (R356). -/
theorem State.call_spec (room : s.pushPlain) (target : Word) :
    (s.call target).reg16 .sp = s.reg16 .sp - 2 ∧
      (s.call target).wordAt (s.seg .ss) (s.reg16 .sp - 2) = s.storedWord (s.seg .ss) (s.reg16 .sp - 2) s.ip ∧
      JumpFrame s (s.call target) { words := [.sp], mem := wordAddrs (s.seg .ss) (s.reg16 .sp - 2) } target := by
  obtain ⟨sp, word, frame⟩ := State.push_spec ready.direct ready.mem room s.ip
  exact ⟨sp, word, .jump frame⟩

/-- CALL far: CS is pushed above the offset (R357). -/
theorem State.callTo_spec (room : s.pushPlain) (room2 : s.plainWordAt (s.seg .ss) (s.reg16 .sp - 4)) (sel target : Word) :
    (s.callTo sel target).reg16 .sp = s.reg16 .sp - 4 ∧
      (s.callTo sel target).wordAt (s.seg .ss) (s.reg16 .sp - 2) = s.storedWord (s.seg .ss) (s.reg16 .sp - 2) (s.seg .cs) ∧
      (s.callTo sel target).wordAt (s.seg .ss) (s.reg16 .sp - 4) = s.storedWord (s.seg .ss) (s.reg16 .sp - 4) s.ip ∧
      (s.callTo sel target).seg .cs = sel ∧
      JumpFrame s (s.callTo sel target)
        { words := [.sp], segs := [.cs], mem := wordAddrs (s.seg .ss) (s.reg16 .sp - 2) ++ wordAddrs (s.seg .ss) (s.reg16 .sp - 4) } target := by
  obtain ⟨sp, cs, ip, frame, -⟩ := State.push_push ready.direct ready.mem room room2 (s.seg .cs) s.ip
  exact ⟨sp, cs, ip, State.farJump_cs _ _ _, .farJump (frame.addSeg .cs) (by simp)⟩

theorem State.callOperand_plain {e : Rm16} (plain : s.plainLoc16 (s.locate e)) : s.callOperand e = s.call (s.valueAt16 (s.locate e)) := by
  simp only [State.callOperand, State.read16_plain ready.direct plain]

theorem State.callFar_plain {ea : Ea} (offset : s.plainWordAt (s.operandSeg (defaultSeg ea)) (s.eaOffset ea))
    (segment : s.plainWordAt (s.operandSeg (defaultSeg ea)) (s.eaOffset ea + 2)) :
    s.callFar ea = s.callTo (s.wordAt (s.operandSeg (defaultSeg ea)) (s.eaOffset ea + 2)) (s.wordAt (s.operandSeg (defaultSeg ea)) (s.eaOffset ea)) := by
  simp only [State.callFar, State.rdFar_plain ready.direct offset segment]

end

/-- Settles O38: each form is a near or a far call to the target it names. -/
theorem calls : Obligations.Calls := by
  unfold Obligations.Calls
  intro s ready room ss sp near far
  refine ⟨fun disp => ⟨_, rfl, State.call_spec ready room _⟩, fun e plain => ⟨_, rfl, ?ev⟩, fun room2 => ⟨?ap, ?mp⟩⟩
  case ev =>
    rw [State.callOperand_plain ready plain]
    exact State.call_spec ready room _
  case ap => exact fun off sel => ⟨_, rfl, State.callTo_spec ready room room2 sel off⟩
  case mp =>
    intro ea g o offset segment
    refine ⟨_, rfl, ?_⟩
    rw [State.callFar_plain ready offset segment]
    exact State.callTo_spec ready room room2 _ _

end Sys2Proof.Machine

/-!
O39. A return is its pops, then the release of the bytes it names, then a jump to what was popped (R360-R363).
-/

namespace Sys2Proof.Machine

section
variable {s : State} (ready : s.Ready) (plain : s.popPlain)
include ready plain

/-- RET with a release of `n` bytes (R360, R361). -/
theorem State.retNear_spec (n : Word) :
    (s.retNear n).reg16 .sp = s.reg16 .sp + 2 + n ∧ JumpFrame s (s.retNear n) { words := [.sp] } s.top := by
  simp only [State.retNear, State.pop_spec ready.direct plain]
  exact ⟨by simp, .jump ((Frame.setReg16 s .sp _ (by simp)).andThen (Frame.setReg16 _ .sp _ (by simp)))⟩

/-- RETF with a release of `n` bytes is a far jump to what was popped (R362, R363). -/
theorem State.retFar_plain (second : s.plainWordAt (s.seg .ss) (s.reg16 .sp + 2)) (n : Word) :
    s.retFar n = (s.setReg16 .sp (s.reg16 .sp + 4 + n)).farJump (s.wordAt (s.seg .ss) (s.reg16 .sp + 2)) s.top := by
  simp only [State.retFar, State.popFarTarget_plain ready.direct plain second]
  rfl

theorem State.retFar_spec (second : s.plainWordAt (s.seg .ss) (s.reg16 .sp + 2)) (n : Word) :
    (s.retFar n).reg16 .sp = s.reg16 .sp + 4 + n ∧ (s.retFar n).seg .cs = s.wordAt (s.seg .ss) (s.reg16 .sp + 2) ∧
      JumpFrame s (s.retFar n) { words := [.sp], segs := [.cs] } s.top := by
  rw [State.retFar_plain ready plain second]
  exact ⟨by simp, State.farJump_cs _ _ _, .farJump (Frame.setReg16 s .sp _ (by simp)) (by simp)⟩

end

/-- Settles O39: the forms without a release are those with a release of 0 bytes. -/
theorem returns : Obligations.Returns := by
  unfold Obligations.Returns
  intro s v ready plain admitted ss sp
  have near := State.retNear_spec ready plain
  refine ⟨⟨_, documentedMain_of_admits admitted _, ?_⟩, fun n => ⟨_, documentedMain_of_admits admitted _, near n⟩, fun second => ?far⟩
  · simpa using near 0
  case far =>
    have far := State.retFar_spec ready plain second
    refine ⟨⟨_, documentedMain_of_admits admitted _, ?_⟩, fun n => ⟨_, documentedMain_of_admits admitted _, far n⟩⟩
    simpa using far 0

end Sys2Proof.Machine

/-!
O40, O41. A short conditional transfer at the instruction level is a jump if it is taken, and nothing if it is not (R364); LOOP and its kin decrease CX first
(R366-R368).
-/

namespace Sys2Proof.Machine

section
variable {s : State} (direct : s.Direct) (disp : Byte)
include direct

theorem State.branch_taken : s.branch true disp = s.jump (s.ip + disp.signExtend 16) := by
  simp only [State.branch, State.noteBranch_direct direct, if_true]

theorem State.branch_not_taken : s.branch false disp = s := by
  simp only [State.branch, State.noteBranch_direct direct, Bool.false_eq_true, if_false]

/-- CX after LOOP is not 0 unless it was 1, so LOOP with CX = 0 goes on (R366). -/
theorem State.loop_again (more : s.reg16 .cx ≠ 1) :
    s.loop true disp = (s.setReg16 .cx (s.reg16 .cx - 1)).jump (s.ip + disp.signExtend 16) := by
  have left : s.reg16 .cx - 1 ≠ 0 := fun zero => more (by bv_omega)
  have taken : ((s.setReg16 .cx (s.reg16 .cx - 1)).reg16 .cx != 0 && true) = true := by simpa using left
  rw [State.loop, taken]
  exact State.branch_taken (s := s.setReg16 .cx (s.reg16 .cx - 1)) direct disp

theorem State.loop_ends {c : Bool} (last : s.reg16 .cx = 1 ∨ c = false) : s.loop c disp = s.setReg16 .cx (s.reg16 .cx - 1) := by
  have notTaken : ((s.setReg16 .cx (s.reg16 .cx - 1)).reg16 .cx != 0 && c) = false := by
    rcases last with one | stop
    · simp [one]
    · simp [stop]
  rw [State.loop, notTaken]
  exact State.branch_not_taken (s := s.setReg16 .cx (s.reg16 .cx - 1)) direct disp

theorem State.loop_cx (c : Bool) : (s.loop c disp).reg16 .cx = s.reg16 .cx - 1 := by
  by_cases last : s.reg16 .cx = 1 ∨ c = false
  · simp [State.loop_ends direct disp last]
  · obtain ⟨more, goesOn⟩ := not_or.mp last
    obtain rfl : c = true := by simpa using goesOn
    simp [State.loop_again direct disp more]

end

/-- Settles O40: each form is the branch on its condition, that of an odd code being the negation of the even code's (R365). -/
theorem condJumps : Obligations.CondJumps := by
  unfold Obligations.CondJumps
  intro s v disp direct admitted jumpsIf
  have jump {i : Instr} {c : Bool} (meaning : exec i s = documentedMain v s (.next (s.branch c disp))) : jumpsIf i c := by
    refine ⟨_, meaning.trans (documentedMain_of_admits admitted _), ?_, ?_⟩
    · rintro rfl
      rw [State.branch_taken direct disp]
      exact .jump (.refl s {})
    · rintro rfl
      exact State.branch_not_taken direct disp
  have notBE : (!s.condBE) = (!s.flag .cf && !s.flag .zf) := Bool.not_or _ _
  have notL : (!s.condL) = (s.flag .sf == s.flag .ovf) := Bool.not_not _
  have notLE : (!s.condLE) = (!s.flag .zf && s.flag .sf == s.flag .ovf) := (Bool.not_or _ _).trans (congrArg _ notL)
  exact ⟨jump rfl, jump rfl, jump rfl, jump rfl, jump rfl, jump rfl, jump rfl, notBE ▸ jump rfl, jump rfl, jump rfl, jump rfl, jump rfl, jump rfl,
    notL ▸ jump rfl, jump rfl, notLE ▸ jump rfl⟩

/-- Settles O41: the loop goes on exactly where CX was not 1 and the condition holds; JCXZ is the branch on CX = 0. -/
theorem loops : Obligations.Loops := by
  unfold Obligations.Loops
  intro s disp direct target loops
  have decreased : Frame s (s.setReg16 .cx (s.reg16 .cx - 1)) { words := [.cx] } := Frame.setReg16 s .cx _ (by simp)
  have loop {i : Instr} {c : Bool} (meaning : exec i s = .next (s.loop c disp)) : loops i c := by
    refine ⟨_, meaning, State.loop_cx direct disp c, ?_, fun last => ?_⟩
    · rintro ⟨more, rfl⟩
      rw [State.loop_again direct disp more]
      exact .jump decreased
    · rw [State.loop_ends direct disp last]
      exact decreased
  have jcxz (c : Bool) (taken : (s.reg16 .cx == 0) = c) : exec (.jcxzJb disp) s = .next (s.branch c disp) := taken ▸ rfl
  refine ⟨loop rfl, loop rfl, loop rfl, fun zero => ⟨_, jcxz true (by simpa using zero), ?jumps⟩, fun nonzero => ?falls⟩
  case jumps =>
    rw [State.branch_taken direct disp]
    exact .jump (.refl s {})
  case falls => rw [jcxz false (by simpa using nonzero), State.branch_not_taken direct disp]

end Sys2Proof.Machine

/-!
O42, O43. Entering an interrupt and returning from one, by the laws of the two sequences (R450, R373).
-/

namespace Sys2Proof.Machine

theorem exec_into_of_direct {s : State} (direct : s.Direct) : exec .into s = .next (if s.flag .ovf then s.raiseInternal 4#8 else s) := by
  have meaning : exec .into s = .next (if s.flag .ovf then (s.noteBranch true).raiseInternal 4#8 else s.noteBranch false) := rfl
  rw [meaning, State.noteBranch_direct direct, State.noteBranch_direct direct]

/-- Settles O42: each form is the entry an instruction makes by itself; INTO makes it where OF is 1. -/
theorem softwareInterrupts : Obligations.SoftwareInterrupts := by
  unfold Obligations.SoftwareInterrupts
  intro s ready
  have entry (n : Byte) (plain : s.EntryPlain n) : OwnEntry s (s.raiseInternal n) n := State.raiseInternal_spec ready.direct ready.mem n plain
  refine ⟨fun n plain => ⟨_, rfl, entry n plain⟩, fun plain => ⟨_, rfl, entry 3#8 plain⟩, fun plain overflow => ?taken, fun noOverflow => ?falls⟩
  case taken => exact ⟨_, by rw [exec_into_of_direct ready.direct, if_pos overflow], entry 4#8 plain⟩
  case falls => simp [exec_into_of_direct ready.direct, noOverflow]

/-- Settles O43: IRET is a write of SP, one of FLAGS through the hardwired view (R27), and a far jump. -/
theorem interruptReturn : Obligations.InterruptReturn := by
  unfold Obligations.InterruptReturn
  intro s ready ss sp first second third
  refine ⟨s.iret, rfl, ?_⟩
  rw [State.iret_plain ready.direct first second third]
  have live (f : Flag) : f ∈ [Flag.cf, .pf, .af, .zf, .sf, .tf, .intf, .df, .ovf] := by cases f <;> decide
  refine ⟨State.farJump_cs _ _ _, rfl, State.flag_setFlags (s.setReg16 .sp (sp + 6)) _, by simp [sp], .farJump ?_ (by simp)⟩
  exact (Frame.setReg16 s .sp _ (by simp)).andThen (Frame.setFlags (ready.setReg16 .sp _).flags _ live)

end Sys2Proof.Machine

/-!
O44, O46. Each flag instruction is one write of a flag, STI's from the state in which INTR is delayed (R390-R396, R462). The halt cycle and the reads of ESC in
RAM or ROM leave nothing behind at the instruction level (R397, R399).
-/

namespace Sys2Proof.Machine

/-- The delay of STI is set under STI_SHADOW and else stays as it is (R396, R462). -/
theorem State.delayIntr_eq (s : State) : s.delayIntr = { s with intr := { s.intr with stiDelay := s.cfg.stiShadow || s.intr.stiDelay } } := by
  unfold State.delayIntr
  cases shadow : s.cfg.stiShadow with
  | false => rfl
  | true => rfl

/-- The delay of STI and a write of a flag change different parts of the state. -/
theorem State.delayIntr_setFlag (s : State) (f : Flag) (b : Bool) : (s.setFlag f b).delayIntr = s.delayIntr.setFlag f b := by
  rw [State.delayIntr_eq, State.delayIntr_eq]
  rfl

/-- Settles O44: each instruction is one write of its flag; STI's is made after the delay. -/
theorem flagInstructions : Obligations.FlagInstructions := by
  unfold Obligations.FlagInstructions
  intro s sets
  have writes {i : Instr} {f : Flag} {b : Bool} (meaning : exec i s = .next (s.setFlag f b)) : sets i f b :=
    ⟨_, meaning, by simp, Frame.setFlag s f b (by simp)⟩
  have sti : exec .sti s = .next (s.delayIntr.setFlag .intf true) := congrArg Host.Outcome.next (s.delayIntr_setFlag .intf true)
  rw [← State.delayIntr_eq]
  exact ⟨writes rfl, writes rfl, writes rfl, writes rfl, writes rfl, writes rfl, _, sti, by simp, Frame.setFlag _ _ _ (by simp)⟩

/-- The halt cycle moves no byte and is no recorded event (R100), so at the instruction level HLT only halts (R397). -/
theorem State.halt_direct {s : State} (direct : s.Direct) : s.halt = { s with intr := { s.intr with halted := true } } := by
  have cycle : s.busWrite .halt 0#20 0#8 = s := by
    have replay : s.port.replay = false := direct
    simp [State.busWrite, replay, State.directWrite, State.storeValue, State.record_eq, Params.isEvent]
  unfold State.halt
  rw [cycle]

/-- What ESC reads from RAM or ROM it drops, and such a read changes nothing (R82, R399). -/
theorem State.escape_plain {s : State} (direct : s.Direct) (n : BitVec 6) (ea : Ea)
    (plain : ∀ d ∈ escOffsets s.cfg n, s.plainAt (s.operandSeg (defaultSeg ea)) (s.eaOffset ea + d)) : s.escape n (.mem ea) = s := by
  refine List.foldlRecOn (motive := (· = s)) (escOffsets s.cfg n) _ rfl fun t same d listed => ?_
  rw [same, State.rdB_plain direct (plain d listed)]

/-- Settles O46: HLT and ESC by their laws; WAIT is a test of one pin. -/
theorem haltWaitEscape : Obligations.HaltWaitEscape := by
  unfold Obligations.HaltWaitEscape
  intro s ready
  have wait : exec .wait s = .next (if s.intr.testPin then s else { s with waiting := true }) := rfl
  refine ⟨congrArg Host.Outcome.next (State.halt_direct ready.direct), fun asserted => ?_, fun released => ?_, fun _ _ => rfl, fun n ea plain => ?_⟩
  · rw [wait, if_pos asserted]
  · simp [wait, released]
  · exact congrArg Host.Outcome.next (State.escape_plain ready.direct n ea plain)

end Sys2Proof.Machine

/-!
O33. POP CS and MOV CS write CS and draw the free number of bytes that still come from the old CS; IP and the queue stay (R414, R416; log 12).
-/

namespace Sys2Proof.Machine

/-- Under UNDOC_MODE = silicon an undocumented encoding has the effect its rule describes (R410). -/
theorem undocumented_of_silicon {s : State} (silicon : s.cfg.undocMode = .silicon) (r : Res) : undocumented s r = r := by
  simp [undocumented, silicon]

theorem Frame.drawNat (s : State) (d : Dests) : Frame s s.drawNat.2 d := ⟨RegFrame.ofEq d rfl rfl rfl rfl, rfl, rfl⟩

section
variable {s : State} (direct : s.Direct) (v : Word)
include direct

/-- At the instruction level a write of CS without a flush notes the race with the old CS beside it; the count is a free number up to Q_CAP (R414). -/
theorem State.setCsNoFlush_direct :
    s.setCsNoFlush v = { s with fetchRace := some ⟨s.seg .cs, s.drawNat.1 % (s.cfg.qCap + 1)⟩ }.drawNat.2.setSeg .cs v :=
  if_neg (Bool.eq_false_iff.mp direct)

/-- A write of CS without a flush changes nothing but CS and the race. -/
theorem State.setCsNoFlush_spec : ∃ k ≤ s.cfg.qCap, (s.setCsNoFlush v).seg .cs = v ∧
    Frame { s with fetchRace := some ⟨s.seg .cs, k⟩ } (s.setCsNoFlush v) { segs := [.cs] } := by
  have count : s.drawNat.1 % (s.cfg.qCap + 1) ≤ s.cfg.qCap := Nat.lt_succ_iff.mp (Nat.mod_lt _ (Nat.succ_pos _))
  rw [State.setCsNoFlush_direct direct]
  exact ⟨_, count, by simp, (Frame.drawNat _ _).andThen (Frame.setSeg _ .cs v (by simp))⟩

end

/-- Settles O33: the word is popped or read, then CS is written, then the shadow is set (R462). -/
theorem csWrites : Obligations.CsWrites := by
  unfold Obligations.CsWrites
  intro s ready silicon
  refine ⟨fun plain => ?pop, fun v e plain => ?mov⟩
  case pop =>
    obtain ⟨k, count, cs, frame⟩ := State.setCsNoFlush_spec (ready.setReg16 .sp (s.reg16 .sp + 2)).direct s.top
    have popped : s.popCs = ((s.setReg16 .sp (s.reg16 .sp + 2)).setCsNoFlush s.top).setShadow := by
      rw [State.popCs, State.pop_spec ready.direct plain]
    refine ⟨s.popCs, k, undocumented_of_silicon silicon _, ?_⟩
    rw [popped]
    have sp := frame.regs.words .sp (by simp) (by simp)
    have release : Frame { s with fetchRace := some ⟨s.seg .cs, k⟩ } _ { words := [.sp], segs := [.cs] } :=
      Frame.setReg16 _ .sp (s.reg16 .sp + 2) (by simp)
    exact ⟨cs, sp, count, (release.andThen (frame.addWord .sp)).setShadow⟩
  case mov =>
    obtain ⟨k, count, cs, frame⟩ := State.setCsNoFlush_spec ready.direct (s.valueAt16 (s.locate e))
    have moved : s.movCs e = (s.setCsNoFlush (s.valueAt16 (s.locate e))).setShadow := by
      rw [State.movCs, State.read16_plain ready.direct plain]
    refine ⟨s.movCs e, k, undocumented_of_silicon silicon _, ?_⟩
    rw [moved]
    exact ⟨cs, count, frame.setShadow⟩

end Sys2Proof.Machine

/-!
O48. SETMO and SETMOC write all ones and then six flags with fixed values (R420); SALC is one write of AL (R413).
-/

namespace Sys2Proof.Machine

/-- The values of the six status flags after SETMO and SETMOC (R420). -/
def MinusOneFlags (t : State) : Prop :=
  t.flag .cf = false ∧ t.flag .ovf = false ∧ t.flag .af = false ∧ t.flag .sf = true ∧ t.flag .zf = false ∧ t.flag .pf = true

theorem State.minusOneFlags_spec (s : State) : MinusOneFlags s.minusOneFlags ∧ ChangesFlags s s.minusOneFlags statusFlags := by
  have step (t : State) {f : Flag} (b : Bool) (mem : f ∈ statusFlags) := ChangesFlags.setFlag t f b mem
  refine ⟨by simp [MinusOneFlags, State.minusOneFlags], ?_⟩
  exact (((((step s false (by decide)).andThen (step _ false (by decide))).andThen
    (step _ false (by decide))).andThen (step _ true (by decide))).andThen (step _ false (by decide))).andThen (step _ true (by decide))

theorem dest8_flags (l : Loc Reg8) (fs : List Flag) : (dest8 l fs).flags = fs := by cases l <;> rfl

theorem dest16_flags (l : Loc Reg16) (fs : List Flag) : (dest16 l fs).flags = fs := by cases l <;> rfl

section
variable {s : State} (ready : s.Ready)
include ready

/-- SETMO at width 8, for E in a register, RAM or ROM. -/
theorem State.minusOne8_spec {e : Rm8} (plain : s.plainLoc8 (s.locate e)) :
    (s.minusOne8 e).valueAt8 (s.locate e) = s.stored8 (s.locate e) 0xFF#8 ∧ MinusOneFlags (s.minusOne8 e) ∧
      Frame s (s.minusOne8 e) (dest8 (s.locate e) statusFlags) := by
  obtain ⟨flags, changed⟩ := State.minusOneFlags_spec (s.put8 (s.locate e) 0xFF#8)
  have written : s.minusOne8 e = (s.put8 (s.locate e) 0xFF#8).minusOneFlags := congrArg _ (State.write8_plain ready.direct plain _)
  rw [written]
  exact ⟨(changed.only.valueAt8 _).trans (State.valueAt8_put8 ready.mem _ _), flags,
    (Frame.put8 s _ _ statusFlags).thenFlags (by rwa [dest8_flags])⟩

/-- SETMO at width 16. -/
theorem State.minusOne16_spec {e : Rm16} (plain : s.plainLoc16 (s.locate e)) :
    (s.minusOne16 e).valueAt16 (s.locate e) = s.stored16 (s.locate e) 0xFFFF#16 ∧ MinusOneFlags (s.minusOne16 e) ∧
      Frame s (s.minusOne16 e) (dest16 (s.locate e) statusFlags) := by
  obtain ⟨flags, changed⟩ := State.minusOneFlags_spec (s.put16 (s.locate e) 0xFFFF#16)
  have written : s.minusOne16 e = (s.put16 (s.locate e) 0xFFFF#16).minusOneFlags := congrArg _ (State.write16_plain ready.direct plain _)
  rw [written]
  exact ⟨(changed.only.valueAt16 _).trans (State.valueAt16_put16 ready.mem _ _), flags,
    (Frame.put16 s _ _ statusFlags).thenFlags (by rwa [dest16_flags])⟩

end

/-- Settles O48: SETMOC is SETMO where CL is not 0, and nothing where it is. -/
theorem undocumentedSilicon : Obligations.UndocumentedSilicon := by
  unfold Obligations.UndocumentedSilicon
  intro s ready silicon ones
  have runs {i : Instr} {t : State} (meaning : exec i s = undocumented s (.next t)) : exec i s = .next t :=
    meaning.trans (undocumented_of_silicon silicon _)
  have counted {i : Instr} {t : State} (meaning : exec i s = undocumented s (.next (if s.reg8 .cl = 0#8 then s else t))) :
      (s.reg8 .cl ≠ 0#8 → exec i s = .next t) ∧ (s.reg8 .cl = 0#8 → exec i s = .next s) :=
    ⟨fun nonzero => by rw [runs meaning, if_neg nonzero], fun zero => by rw [runs meaning, if_pos zero]⟩
  refine ⟨⟨_, runs rfl, by simp, Frame.setReg8 s .al _ (.inl (by simp))⟩, fun e plain => ?byte, fun e plain => ?word⟩
  case byte =>
    have ones := State.minusOne8_spec ready plain
    obtain ⟨acts, idle⟩ := counted (i := .setmocEb e) rfl
    exact ⟨⟨_, runs rfl, ones⟩, fun nonzero => ⟨_, acts nonzero, ones⟩, idle⟩
  case word =>
    have ones := State.minusOne16_spec ready plain
    obtain ⟨acts, idle⟩ := counted (i := .setmocEv e) rfl
    exact ⟨⟨_, runs rfl, ones⟩, fun nonzero => ⟨_, acts nonzero, ones⟩, idle⟩

end Sys2Proof.Machine

/-!
O47, O49. What is refused: an undocumented encoding under UNDOC_MODE = refuse (R410), and in both modes the forms to which the spec gives no effect (R421, R423,
R424; log 34).
-/

namespace Sys2Proof.Machine

section
variable {s : State}

theorem undocumented_of_refuse (refuse : s.cfg.undocMode = .refuse) (r : Res) : undocumented s r = .refused .undocumentedEncoding := by
  simp [undocumented, refuse]

/-- A form whose reg field is ignored is undocumented where the field is not 0 (R417, R418). -/
theorem documentedZero_of_ne {reg : BitVec 3} (nonzero : reg ≠ 0#3) (r : Res) : documentedZero reg s r = undocumented s r := if_neg nonzero

/-- IMUL and IDIV under a repeat prefix are undocumented and have no effect (R424). -/
theorem repRefused_of_repeated (repeated : s.pfx.rep ≠ none) (r : Res) : repRefused s r = undocumented s (.refused .repBeforeImulIdiv) := by
  obtain ⟨rep, latched⟩ := Option.ne_none_iff_exists'.mp repeated
  simp [repRefused, latched]

end

/-- The second encodings of MOV to a segment register are undocumented, whichever register they name (R416). -/
theorem exec_movSwEw_second (sr : SReg) (e : Rm16) (s : State) : ∃ r, exec (.movSwEw .second sr e) s = undocumented s r := by
  by_cases data : sr = .cs
  · exact data ▸ ⟨_, rfl⟩
  · exact ⟨_, exec_movSwEw data .second e s⟩

/-- Settles O47: the meaning of each encoding is that of an undocumented one, whatever effect the silicon has. -/
theorem undocumentedRefused : Obligations.UndocumentedRefused := by
  unfold Obligations.UndocumentedRefused
  intro s refuse refused
  have stops {i : Instr} {r : Res} (meaning : exec i s = undocumented s r) : refused i := meaning.trans (undocumented_of_refuse refuse r)
  refine ⟨fun d => ?jumps, fun n => ⟨stops rfl, stops rfl, stops rfl, stops rfl⟩, stops rfl, stops rfl, stops rfl, fun v sr e => ?segments,
    fun reg e8 e16 imm8 imm16 nonzero => ?reg, fun e8 e16 imm8 imm16 => ⟨stops rfl, stops rfl, stops rfl⟩,
    fun e8 e16 => ⟨stops rfl, stops rfl, stops rfl, stops rfl⟩⟩
  case jumps =>
    exact ⟨stops rfl, stops rfl, stops rfl, stops rfl, stops rfl, stops rfl, stops rfl, stops rfl,
      stops rfl, stops rfl, stops rfl, stops rfl, stops rfl, stops rfl, stops rfl, stops rfl⟩
  case segments =>
    obtain ⟨r, toSegment⟩ := exec_movSwEw_second sr e s
    exact ⟨stops rfl, stops toSegment, stops rfl⟩
  case reg => exact ⟨stops (documentedZero_of_ne nonzero _), stops (documentedZero_of_ne nonzero _), stops (documentedZero_of_ne nonzero _)⟩

/-- Settles O49: what each form would do as an undocumented encoding is again a refusal, so both modes refuse it. -/
theorem refusedInBothModes : Obligations.RefusedInBothModes := by
  unfold Obligations.RefusedInBothModes
  intro s refusedAs
  have stops {i : Instr} {r : Refusal} (meaning : exec i s = undocumented s (.refused r)) : refusedAs i r :=
    ⟨fun refuse => meaning.trans (undocumented_of_refuse refuse _), fun silicon => meaning.trans (undocumented_of_silicon silicon _)⟩
  refine ⟨fun e => ⟨stops rfl, stops rfl, stops rfl, stops rfl, stops rfl, stops rfl⟩,
    fun g r => ⟨stops rfl, stops rfl, stops rfl, stops rfl, stops rfl⟩, fun e8 e16 repeated => ?repeated⟩
  case repeated =>
    have meaning (r : Res) := repRefused_of_repeated repeated r
    exact ⟨stops (meaning _), stops (meaning _), stops (meaning _), stops (meaning _)⟩

end Sys2Proof.Machine

/-!
O21. Where there is no quotient, and in AAM with base 0, the destinations are written as DE_DEST says, the status flags become undefined, and type 0 is entered
(R265, R266, R271, R441; log 9).
-/

namespace Sys2Proof.Machine

section
variable {s u : State}

/-- What an interrupt entry needs depends on the stack and the address map alone. -/
theorem State.EntryPlain.congr {n : Byte} (plain : s.EntryPlain n) (cfg : u.cfg = s.cfg) (ss : u.seg .ss = s.seg .ss) (sp : u.reg16 .sp = s.reg16 .sp) :
    u.EntryPlain n := by
  have same (g o : Word) : u.plainWordAt g o = s.plainWordAt g o := by simp only [State.plainWordAt, State.plainAt, cfg]
  obtain ⟨first, second, third, offset, segment⟩ := plain
  constructor <;> simp only [same, ss, sp] <;> assumption

theorem State.errorDestAx_spec (s : State) :
    Frame s s.errorDestAx { words := [.ax] } ∧ ∀ a d, s.cfg.deDest = .fixed a d → s.errorDestAx.reg16 .ax = a := by
  unfold State.errorDestAx
  cases dest : s.cfg.deDest with
  | draw => exact ⟨(Frame.drawWord s _).andThen (Frame.setReg16 _ .ax _ (by simp)), nofun⟩
  | fixed ax dx => exact ⟨Frame.setReg16 s .ax ax (by simp), fun a d same => by cases same; simp⟩

theorem State.errorDestDx_spec (s : State) :
    Frame s s.errorDestDx { words := [.dx] } ∧ ∀ a d, s.cfg.deDest = .fixed a d → s.errorDestDx.reg16 .dx = d := by
  unfold State.errorDestDx
  cases dest : s.cfg.deDest with
  | draw => exact ⟨(Frame.drawWord s _).andThen (Frame.setReg16 _ .dx _ (by simp)), nofun⟩
  | fixed ax dx => exact ⟨Frame.setReg16 s .dx dx (by simp), fun a d same => by cases same; simp⟩

end

theorem divQuotient8_none {n : Word} {d : Byte} (error : d = 0 ∨ 2 ^ 8 ≤ n.toNat / d.toNat) : divQuotient8 n d = none :=
  if_pos (error.imp_left (congrArg BitVec.toNat))

theorem divQuotient16_none {n : BitVec 32} {d : Word} (error : d = 0 ∨ 2 ^ 16 ≤ n.toNat / d.toNat) : divQuotient16 n d = none :=
  if_pos (error.imp_left (congrArg BitVec.toNat))

theorem idivQuotient8_none {n : Word} {d : Byte} (error : d = 0 ∨ 127 < n.toInt.tdiv d.toInt ∨ n.toInt.tdiv d.toInt < -127) :
    idivQuotient8 n d = none := if_pos (error.imp_left (congrArg BitVec.toInt))

theorem idivQuotient16_none {n : BitVec 32} {d : Word} (error : d = 0 ∨ 32767 < n.toInt.tdiv d.toInt ∨ n.toInt.tdiv d.toInt < -32767) :
    idivQuotient16 n d = none := if_pos (error.imp_left (congrArg BitVec.toInt))

section
variable {s : State} (ready : s.Ready) (plain : s.EntryPlain 0#8)
include ready plain

/-- What a divide error does once the destinations and the flags are as `u` has them. -/
theorem State.raiseInternal_divideError {u : State} {ws : List Reg16} (calm : Calm s u) (frame : Frame s u { words := ws, flags := statusFlags })
    (sp : .sp ∉ ws) (dests : ∀ a d, s.cfg.deDest = .fixed a d → (.ax ∈ ws → u.reg16 .ax = a) ∧ (.dx ∈ ws → u.reg16 .dx = d)) :
    DivideError s (u.raiseInternal 0#8) ws :=
  ⟨u, frame, dests, State.raiseInternal_spec (calm.replay.trans ready.direct) (calm.mem ready.mem) 0#8
    (plain.congr calm.cfg (frame.regs.segs .ss (by simp)) (frame.regs.words .sp sp (by simp)))⟩

/-- The divide error of a byte divide and of AAM (R265, R271). -/
theorem State.divideError8_spec : DivideError s s.divideError8 [.ax] := by
  obtain ⟨frame, ax⟩ := s.errorDestAx_spec
  have flags := ChangesFlags.divFlags s.errorDestAx
  refine State.raiseInternal_divideError ready plain ((Calm.errorDestAx s).trans (Calm.undefList _ _))
    (Frame.thenFlags (frame.mono ⟨by simp, by simp, by simp, by simp, by simp⟩) flags) (by simp) fun a d fixed => ⟨fun _ => ?_, by simp⟩
  exact (flags.only.reg16 .ax).trans (ax a d fixed)

/-- The divide error of a word divide (R265). -/
theorem State.divideError16_spec : DivideError s s.divideError16 [.ax, .dx] := by
  obtain ⟨frame, ax⟩ := s.errorDestAx_spec
  obtain ⟨frame2, dx⟩ := s.errorDestAx.errorDestDx_spec
  have flags := ChangesFlags.divFlags s.errorDestAx.errorDestDx
  have both : Frame s s.errorDestAx.errorDestDx { words := [.ax, .dx], flags := statusFlags } :=
    (frame.mono ⟨by simp, by simp, by simp, by simp, by simp⟩).andThen (frame2.mono ⟨by simp, by simp, by simp, by simp, by simp⟩)
  refine State.raiseInternal_divideError ready plain (((Calm.errorDestAx s).trans (Calm.errorDestDx _)).trans (Calm.undefList _ _))
    (both.thenFlags flags) (by simp) fun a d fixed => ⟨fun _ => ?_, fun _ => ?_⟩
  · calc s.errorDestAx.errorDestDx.divFlags.reg16 .ax
      _ = s.errorDestAx.errorDestDx.reg16 .ax := flags.only.reg16 .ax
      _ = s.errorDestAx.reg16 .ax := frame2.regs.words .ax (by simp) (by simp)
      _ = a := ax a d fixed
  · exact (flags.only.reg16 .dx).trans (dx a d ((congrArg Params.deDest (Calm.errorDestAx s).cfg).trans fixed))

/-- A byte divide without a quotient (R265, R266). -/
theorem State.divide8_error {quotient : Word → Byte → Option (Byte × Byte)} {e : Rm8} (operand : s.plainLoc8 (s.locate e))
    (error : quotient (s.reg16 .ax) (s.valueAt8 (s.locate e)) = none) : DivideError s (s.divide8 quotient e) [.ax] := by
  have taken : s.divide8 quotient e = s.divideError8 := by simp only [State.divide8, State.read8_plain ready.direct operand, error]
  rw [taken]
  exact State.divideError8_spec ready plain

/-- A word divide without a quotient (R265, R266). -/
theorem State.divide16_error {quotient : BitVec 32 → Word → Option (Word × Word)} {e : Rm16} (operand : s.plainLoc16 (s.locate e))
    (error : quotient (s.reg16 .dx ++ s.reg16 .ax) (s.valueAt16 (s.locate e)) = none) : DivideError s (s.divide16 quotient e) [.ax, .dx] := by
  have taken : s.divide16 quotient e = s.divideError16 := by simp only [State.divide16, State.read16_plain ready.direct operand, error]
  rw [taken]
  exact State.divideError16_spec ready plain

end

/-- Settles O21: a divisor of 0 and a quotient out of range are where there is no quotient. -/
theorem divideErrors : Obligations.DivideErrors := by
  unfold Obligations.DivideErrors
  intro s ready plain
  refine ⟨fun e operand error => ?divEb, fun e operand error => ?divEv, fun e single operand error => ?idivEb, fun e single operand error => ?idivEv, ?aam⟩
  case divEb => exact ⟨_, rfl, State.divide8_error ready plain operand (divQuotient8_none error)⟩
  case divEv => exact ⟨_, rfl, State.divide16_error ready plain operand (divQuotient16_none error)⟩
  case idivEb => exact ⟨_, repRefused_of_none single _, State.divide8_error ready plain operand (idivQuotient8_none error)⟩
  case idivEv => exact ⟨_, repRefused_of_none single _, State.divide16_error ready plain operand (idivQuotient16_none error)⟩
  case aam => exact ⟨_, rfl, State.divideError8_spec ready plain⟩

end Sys2Proof.Machine

/-!
O50. The boundary algorithm takes at most one event (R461); the entry it leads to is the next step, and an INTR first reads its type in two INTA cycles
(R447, R450, R451).
-/

namespace Sys2Proof.Machine

section
variable {s : State}

theorem State.boundaryEvent_shadow (shadow : s.intr.shadow = true) : s.boundaryEvent = none := if_pos shadow

theorem State.boundaryEvent_nmi (shadow : s.intr.shadow = false) (nmi : s.intr.nmiLatch = true) : s.boundaryEvent = some .nmi := by
  simp [State.boundaryEvent, shadow, nmi]

theorem State.boundaryEvent_intr (shadow : s.intr.shadow = false) (nmi : s.intr.nmiLatch = false) (intr : s.intrReady = true) :
    s.boundaryEvent = some .intr := by
  simp [State.boundaryEvent, shadow, nmi, intr]

/-- Without an interrupt the single-step trap decides (R442). -/
theorem State.boundaryEvent_trap (shadow : s.intr.shadow = false) (nmi : s.intr.nmiLatch = false) (intr : s.intrReady = false) :
    s.boundaryEvent = if s.intr.trapPending && (s.entered != .internal || s.cfg.stepAfterInt) then some .trap else none := by
  simp [State.boundaryEvent, shadow, nmi, intr]

theorem State.recognise_taken (reset : s.intr.resetLine = false) {ev : Event} (taken : s.boundaryEvent = some ev) :
    s.recognise = (s.takeEvent ev s.ip).endBoundary := by
  simp [State.recognise, reset, taken]

theorem State.recognise_nothing (reset : s.intr.resetLine = false) (nothing : s.boundaryEvent = none) : s.recognise = s.endBoundary := by
  simp [State.recognise, reset, nothing]

end

/-- A byte `v` of an INTA cycle, after which `n` bytes have been drawn, is the host's or else the stubs', if there is one (R447, R473; log 38). -/
def State.TypeIs (s : State) (v : Byte) (n : Nat) : Prop := ∀ b, s.intr.intaVector.or s.devtm.vector = some b → v = b ∧ n = s.busDraws

section
variable {s : State} (direct : s.Direct)
include direct

/-- One INTA cycle is no device access and draws at most a byte (R84, R447). -/
theorem State.busRead_inta (a : PAddr) : ∃ v n, s.busRead .inta a = (v, { s with busDraws := n }) ∧ s.TypeIs v n := by
  have replay : s.port.replay = false := direct
  have read : s.busRead .inta a = s.readValue false .inta a := by
    simp [State.busRead, State.directRead, State.record, Params.isEvent, replay]
  rw [read]
  cases given : s.intr.intaVector.or s.devtm.vector with
  | none => exact ⟨_, _, by simp only [State.readValue, given]; rfl, fun b same => by simp [given] at same⟩
  | some v => exact ⟨v, s.busDraws, by simp only [State.readValue, given], fun b same => by simp_all⟩

/-- The second INTA cycle has the type (R451). -/
theorem State.inta_spec : ∃ v n, s.inta = (v, { s with busDraws := n }) ∧ s.TypeIs v n := by
  obtain ⟨v, n, first, given⟩ := State.busRead_inta direct 0#20
  obtain ⟨v2, n2, second, given2⟩ := State.busRead_inta (s := { s with busDraws := n }) direct 0#20
  refine ⟨v2, n2, by rw [State.inta, first, second], fun b same => ?_⟩
  exact ⟨(given2 b same).1, (given2 b same).2.trans (given b same).2⟩

variable (mem : Memory.wf s.mem = true)
include mem

/-- The entry of an INTR is that of the type its INTA cycles have read (R447, R450). -/
theorem State.enterEvent_intr (plain : ∀ v, s.EntryPlain v) (sip : Word) :
    ∃ v n, s.TypeIs v n ∧ IntEntry { s with busDraws := n } (s.enterEvent .intr sip) v sip := by
  obtain ⟨v, n, read, given⟩ := State.inta_spec direct
  have entered : s.enterEvent .intr sip = { s with busDraws := n }.raise v sip := by simp only [State.enterEvent, read]
  rw [entered]
  exact ⟨v, n, given, State.raise_spec (s := { s with busDraws := n }) direct mem v sip ((plain v).congr rfl rfl rfl)⟩

end

theorem step_entry {s : State} {e : PendingEntry} (pending : s.entry = some e) : step s = .next (s.runEntry e) := by simp only [step, pending]

/-- Settles O50: the events in the order of R461, and their entries by the laws of interrupt entry. -/
theorem boundaryEvents : Obligations.BoundaryEvents := by
  unfold Obligations.BoundaryEvents
  refine ⟨fun s reset => ?boundary, fun s sip mem => ?entry⟩
  case boundary =>
    intro intr s0 wantsIntr wantsTrap
    refine ⟨fun shadow => ?_, fun shadow nmi => ?_, fun shadow nmi wants => ?_, fun shadow nmi quiet wants => ?_, fun shadow nmi quiet dropped => ?_⟩
    · exact State.recognise_nothing reset (State.boundaryEvent_shadow shadow)
    · exact State.recognise_taken reset (State.boundaryEvent_nmi shadow nmi)
    · exact State.recognise_taken reset (State.boundaryEvent_intr shadow nmi wants)
    · exact State.recognise_taken reset ((State.boundaryEvent_trap shadow nmi quiet).trans (if_pos wants))
    · exact State.recognise_nothing reset ((State.boundaryEvent_trap shadow nmi quiet).trans (if_neg (Bool.eq_false_iff.mp dropped)))
  case entry =>
    intro s0
    refine ⟨fun pending plain => ?nmi, fun pending plain => ?trap, fun pending plain => ?intr⟩
    case nmi => exact ⟨_, step_entry pending, State.raise_spec (s := s0) rfl mem 2#8 sip (plain.congr rfl rfl rfl)⟩
    case trap => exact ⟨_, step_entry pending, State.raise_spec (s := s0) rfl mem 1#8 sip (plain.congr rfl rfl rfl)⟩
    case intr =>
      obtain ⟨v, n, given, entered⟩ := State.enterEvent_intr (s := s0) rfl mem (fun v => (plain v).congr rfl rfl rfl) sip
      exact ⟨_, v, n, step_entry pending, given, entered⟩

end Sys2Proof.Machine

/-!
O52. One recognition point of a halted core and of WAIT: the event that wakes the core is entered at once, and the boundary's latches are cleared after the entry
(R398, R464, R467; logs 18, 19).
-/

namespace Sys2Proof.Machine

section
variable {s : State}

theorem State.wakeEvent_nmi (shadow : s.intr.shadow = false) (nmi : s.intr.nmiLatch = true) : s.wakeEvent = some .nmi := by
  simp [State.wakeEvent, shadow, nmi]

theorem State.wakeEvent_intr (shadow : s.intr.shadow = false) (nmi : s.intr.nmiLatch = false) (intr : s.intrReady = true) :
    s.wakeEvent = some .intr := by
  simp [State.wakeEvent, shadow, nmi, intr]

/-- With neither NMI nor an enabled INTR nothing wakes the core, in a shadow or not. -/
theorem State.wakeEvent_quiet (quiet : (!s.intr.nmiLatch && !s.intrReady) = true) : s.wakeEvent = none := by
  simp only [Bool.and_eq_true, Bool.not_eq_true'] at quiet
  simp [State.wakeEvent, quiet]

/-- The latches a boundary clears do not matter to an interrupt entry. -/
theorem IntEntry.endBoundary {t : State} {n : Byte} {sip : Word} (h : IntEntry s t n sip) : IntEntry s.endBoundary t.endBoundary n sip := by
  obtain ⟨sp, flags, cs, ip, cleared, target, ⟨regs, at_, queue, race, others⟩⟩ := h
  exact ⟨sp, flags, cs, ip, cleared, target, ⟨⟨regs.words, regs.bytes, regs.segs, regs.flags, regs.reserved, regs.mem⟩, at_, queue, race,
    congrArg State.endBoundary others⟩⟩

/-- WAIT has ended: it waits no more, and its prefixes are forgotten (R44, R467). -/
def State.endWait (s : State) : State := { s with waiting := false, pfx := Pfx.clear }

/-- That WAIT ends does not matter to an interrupt entry. -/
theorem IntEntry.endWait {t : State} {n : Byte} {sip : Word} (h : IntEntry s t n sip) : IntEntry s.endWait t.endWait n sip := by
  obtain ⟨sp, flags, cs, ip, cleared, target, ⟨regs, at_, queue, race, others⟩⟩ := h
  exact ⟨sp, flags, cs, ip, cleared, target, ⟨⟨regs.words, regs.bytes, regs.segs, regs.flags, regs.reserved, regs.mem⟩, at_, queue, race,
    congrArg State.endWait others⟩⟩

/-- The core is woken by an event, which is entered at once (R464, R467). -/
def State.wakeBy (s : State) (ev : Event) (sip : Word) : State := ((s.acceptEvent ev).enterEvent ev sip).endBoundary

/-- A recognition point of a core that halts or waits (log 16, log 17). -/
def State.atRest (s : State) : State := { s with port := Port.direct }.sampled

theorem State.haltStep_eq (s : State) : s.haltStep =
    if s.atRest.intr.resetLine then s.atRest.applyReset
    else s.atRest.wakeEvent.elim s.atRest fun ev => s.atRest.wakeBy ev s.atRest.ip := by
  cases woken : s.atRest.wakeEvent <;>
  · simp only [State.atRest, State.sampled] at woken
    simp only [State.haltStep, woken]
    rfl

theorem State.waitStep_eq (s : State) : s.waitStep =
    if s.atRest.intr.resetLine then s.atRest.applyReset
    else if s.atRest.intr.testPin then
      { s.atRest.endWait with driver := { s.atRest.driver with instructions := s.atRest.driver.instructions + 1 } }.recognise
    else s.atRest.wakeEvent.elim s.atRest fun ev => (s.atRest.wakeBy ev (s.atRest.pfx.start.getD s.atRest.ip)).endWait := by
  cases woken : s.atRest.wakeEvent <;>
  · simp only [State.atRest, State.sampled] at woken
    simp only [State.waitStep, woken]
    rfl

theorem State.atRest_direct (s : State) : s.atRest.Direct := ((Calm.sampleInputs _).trans (Calm.serveDma _)).replay

section
variable (direct : s.Direct) (mem : Memory.wf s.mem = true)
include direct mem

theorem State.wakeBy_nmi (plain : s.EntryPlain 2#8) (sip : Word) : IntEntry (s.acceptEvent .nmi).endBoundary (s.wakeBy .nmi sip) 2#8 sip :=
  (State.raise_spec (s := s.acceptEvent .nmi) direct mem 2#8 sip (plain.congr rfl rfl rfl)).endBoundary

theorem State.wakeBy_intr (plain : ∀ v, s.EntryPlain v) (sip : Word) :
    ∃ v n, s.TypeIs v n ∧ IntEntry { s with busDraws := n }.endBoundary (s.wakeBy .intr sip) v sip := by
  obtain ⟨v, n, given, entered⟩ := State.enterEvent_intr direct mem plain sip
  exact ⟨v, n, given, entered.endBoundary⟩

end

section
variable (entry : s.entry = none) (awake : s.waiting = false) (halted : s.intr.halted = true)
include entry awake halted

theorem step_halted : step s = .next s.haltStep := by simp [step, entry, awake, halted]

theorem step_halted_reset (reset : s.atRest.intr.resetLine = true) : step s = .next s.atRest.applyReset :=
  (step_halted entry awake halted).trans (congrArg _ (if_pos reset))

variable (reset : s.atRest.intr.resetLine = false)
include reset

theorem step_halted_woken {ev : Event} (woken : s.atRest.wakeEvent = some ev) : step s = .next (s.atRest.wakeBy ev s.atRest.ip) := by
  rw [step_halted entry awake halted]
  simp [State.haltStep_eq, reset, woken]

theorem step_halted_quiet (quiet : s.atRest.wakeEvent = none) : step s = .next s.atRest := by
  rw [step_halted entry awake halted]
  simp [State.haltStep_eq, reset, quiet]

end

section
variable (entry : s.entry = none) (waits : s.waiting = true)
include entry waits

theorem step_waiting : step s = .next s.waitStep := by simp [step, entry, waits]

theorem step_waiting_reset (reset : s.atRest.intr.resetLine = true) : step s = .next s.atRest.applyReset :=
  (step_waiting entry waits).trans (congrArg _ (if_pos reset))

variable (reset : s.atRest.intr.resetLine = false)
include reset

/-- TEST completes WAIT, which is counted and has its boundary (R398). -/
theorem step_waiting_test (test : s.atRest.intr.testPin = true) : step s =
    .next { s.atRest.endWait with driver := { s.atRest.driver with instructions := s.atRest.driver.instructions + 1 } }.recognise := by
  rw [step_waiting entry waits]
  simp [State.waitStep_eq, reset, test]

variable (test : s.atRest.intr.testPin = false)
include test

theorem step_waiting_woken {ev : Event} (woken : s.atRest.wakeEvent = some ev) :
    step s = .next (s.atRest.wakeBy ev (s.atRest.pfx.start.getD s.atRest.ip)).endWait := by
  rw [step_waiting entry waits]
  simp [State.waitStep_eq, reset, test, woken]

theorem step_waiting_quiet (quiet : s.atRest.wakeEvent = none) : step s = .next s.atRest := by
  rw [step_waiting entry waits]
  simp [State.waitStep_eq, reset, test, quiet]

end

end

/-- Settles O52: the order of reset, TEST and the two interrupts, and the entries by the laws of interrupt entry. -/
theorem haltAndWait : Obligations.HaltAndWait := by
  unfold Obligations.HaltAndWait
  intro s entry p intr wantsIntr quiet typeIs
  have direct : p.Direct := s.atRest_direct
  refine ⟨fun rests reset => ?reset, fun awake halted reset => ⟨fun nothing => ?_, fun shadow nmi mem plain => ?_, fun shadow nmi wants mem plain => ?_⟩,
    fun waits reset => ⟨fun test => ?_, fun test nothing => ?_, fun test shadow nmi mem plain => ?_, fun test shadow nmi wants mem plain => ?_⟩⟩
  case reset =>
    cases waits : s.waiting with
    | true => exact step_waiting_reset entry waits reset
    | false => exact step_halted_reset entry waits (by simpa [waits] using rests) reset
  · exact step_halted_quiet entry awake halted reset (State.wakeEvent_quiet nothing)
  · exact ⟨_, step_halted_woken entry awake halted reset (State.wakeEvent_nmi shadow nmi), State.wakeBy_nmi direct mem plain _⟩
  · obtain ⟨v, n, given, entered⟩ := State.wakeBy_intr direct mem plain p.ip
    exact ⟨_, v, n, step_halted_woken entry awake halted reset (State.wakeEvent_intr shadow nmi wants), given, entered⟩
  · exact step_waiting_test entry waits reset test
  · exact step_waiting_quiet entry waits reset test (State.wakeEvent_quiet nothing)
  · exact ⟨_, step_waiting_woken entry waits reset test (State.wakeEvent_nmi shadow nmi), (State.wakeBy_nmi direct mem plain _).endWait⟩
  · obtain ⟨v, n, given, entered⟩ := State.wakeBy_intr direct mem plain (p.pfx.start.getD p.ip)
    exact ⟨_, v, n, step_waiting_woken entry waits reset test (State.wakeEvent_intr shadow nmi wants), given, entered.endWait⟩

end Sys2Proof.Machine

/-!
O51, O9. Sampling one set of the host's inputs, and the reset sequence (R45, R465, R466, R490, R571).
-/

namespace Sys2Proof.Machine

/-- The host is sampled by the next inputs of the script (log 16). -/
theorem State.sampleInputs_cons {s : State} {h : HostInput} {rest : List HostInput} (script : s.inputs = h :: rest) :
    s.sampleInputs = { s with inputs := rest }.applyInput h := by
  simp only [State.sampleInputs, script]

/-- Settles O51: every field is one of `State.applyInput`. -/
theorem inputSampling : Obligations.InputSampling := by
  unfold Obligations.InputSampling
  intro s h rest script t
  have sampled : t = { s with inputs := rest }.applyInput h := State.sampleInputs_cons script
  rw [sampled]
  exact ⟨rfl, rfl, rfl, rfl, rfl, rfl, rfl, rfl, rfl, rfl, rfl, rfl, rfl, rfl⟩

/-- Settles O9: the values are those of `State.initial`, and what is kept is what `State.applyReset` puts back. -/
theorem resetSequence : Obligations.ResetSequence := by
  unfold Obligations.ResetSequence
  intro s t
  exact ⟨rfl, rfl, rfl, rfl, rfl, rfl, rfl, rfl, rfl, rfl, rfl, rfl, rfl, rfl, rfl, rfl, rfl, rfl, rfl, rfl, rfl, rfl⟩

end Sys2Proof.Machine

/-!
O58. Every part of a tick but a reset leaves the count of cycles alone (Laws/Engine.lean), so a tick adds one to what its core part leaves (R570-R572; log 33).
-/

namespace Sys2Proof.Machine

section
variable {s : State}

theorem State.tick_stopped (stopped : s.driver.status.stopped = true) : s.tick = { s with driver := { s.driver with validation := .off } } :=
  if_pos stopped

theorem State.tickCore_reset (reset : s.sampleInputs.intr.resetLine = true) : s.tickCore = s.sampleInputs.applyReset := if_pos reset

theorem State.tickCore_cycles (reset : s.sampleInputs.intr.resetLine = false) : s.tickCore.driver.cycles = s.driver.cycles := by
  have moved := (Keeps.sampleInputs s).trans (Keeps.advanceCycle _)
  simp only [State.tickCore, reset]
  split
  · contradiction
  · split
    · exact moved.cycles
    · exact (moved.trans (Keeps.stepCycle _)).cycles

/-- What follows the core part counts the tick and nothing else. -/
theorem State.tick_cycles (live : s.driver.status.stopped = false) : s.tick.driver.cycles = s.tickCore.driver.cycles + 1 := by
  have updated := (Keeps.updateStatus s.tickCore).cycles
  have validated := Keeps.validate { s.tickCore.updateStatus with
    driver := { s.tickCore.updateStatus.driver with cycles := s.tickCore.updateStatus.driver.cycles + 1 } }
  rw [← updated]
  simp only [State.tick, live]
  split
  · contradiction
  · split
    · exact (validated.trans (Keeps.noteCheckpoint _)).cycles
    · exact validated.cycles

end

/-- Settles O58: the core part of a reset leaves the count 0, of any other tick the count as it was. -/
theorem tickCounts : Obligations.TickCounts := by
  unfold Obligations.TickCounts
  refine fun s => ⟨State.tick_stopped, fun live reset => ?_, fun live reset => ?_⟩
  · rw [State.tick_cycles live, State.tickCore_reset reset]
    rfl
  · rw [State.tick_cycles live, State.tickCore_cycles reset]

end Sys2Proof.Machine

/-!
O59. A comparison changes the session and its result only (R540); how the two exchanges of a serial link end decides it (R547, R551-R553), and two snapshots
match where none of the categories of R548 differs.
-/

namespace Sys2Proof.Machine

section
variable {s : State}

/-- `t` is `s` but for the session, the result of its comparison and the log handed over. -/
def SessionOnly (s t : State) : Prop :=
  { t with session := s.session, driver := { t.driver with validation := s.driver.validation, handedLog := s.driver.handedLog } } = s

theorem SessionOnly.recordComparison (s : State) (n : Session) (hw : Snapshot) : SessionOnly s (s.recordComparison n hw) := by
  unfold State.recordComparison
  simp only
  split <;> rfl

theorem SessionOnly.validateCycle (s : State) (n : Session) : SessionOnly s (s.validateCycle n) := by
  unfold State.validateCycle
  split
  · rfl
  · simp only
    split
    · rfl
    · rfl
    · split
      · rfl
      · rfl
      · rfl
      · exact SessionOnly.recordComparison s _ _

theorem State.validate_off (nobody : s.comparing = none) : s.validate = { s with driver := { s.driver with validation := .off } } := by
  simp only [State.validate, nobody]

theorem State.validate_comparing {n : Session} (session : s.comparing = some n) : s.validate = s.validateCycle n := by
  simp only [State.validate, session]

theorem SessionOnly.validate (s : State) : SessionOnly s s.validate := by
  cases session : s.comparing with
  | none =>
    rw [State.validate_off session]
    rfl
  | some n =>
    rw [State.validate_comparing session]
    exact SessionOnly.validateCycle s n

/-- Without a session, or without validator mode, nothing is compared (R571, R576). -/
theorem State.comparing_none (off : s.session = none ∨ s.cfg.validatorMode ≠ .enabled) : s.comparing = none := by
  unfold State.comparing
  split
  next enabled =>
    rw [off.resolve_right (not_not.mpr enabled)]
    rfl
  all_goals rfl

/-- An Open or Degraded session is compared (R571). -/
theorem State.comparing_some {n : Session} (enabled : s.cfg.validatorMode = .enabled) (session : s.session = some n)
    (status : n.status = .opened ∨ n.status = .degraded) : s.comparing = some n := by
  rcases status with status | status <;> simp [State.comparing, enabled, session, status, SessionStatus.compares]

theorem State.validateCycle_null {n : Session} (null : n.conn = .null) :
    s.validateCycle n = { s with session := some { n with seq := n.seq + 1 }, driver := { s.driver with validation := .matched } } := by
  simp only [State.validateCycle, null]

/-- A command's exchange as a comparison makes it, with the attempts the session has (R551). -/
def State.exchanged (s : State) (cmd : Cmd) (conn : Transport) : Exchange × Transport :=
  exchangeRetry s.cfg.validator cmd s.cfg.validator.maxAttempts conn

section
variable {n : Session} {l : Link} {e : Exchange} {conn1 conn2 : Transport} (serial : n.conn = .serial l)
include serial

/-- A step exchange that is not good ends the comparison (R551-R553). -/
theorem State.validateCycle_step (stepped : s.exchanged .step n.conn = (e, conn1)) :
    (e = .failed → s.validateCycle n = s.fatalSession n) ∧ (e = .aborted → s.validateCycle n = s.abortedSession n conn1) := by
  unfold State.exchanged at stepped
  rw [serial] at stepped
  constructor <;> rintro rfl <;> simp only [State.validateCycle, serial, stepped]

/-- After a good step exchange the state is read back (R547), which ends the comparison in one of three ways. -/
theorem State.validateCycle_readBusState {a : Option Snapshot} (stepped : s.exchanged .step n.conn = (.good a, conn1))
    (read : s.exchanged .readBusState conn1 = (e, conn2)) :
    (e = .failed → s.validateCycle n = s.fatalSession n) ∧ (e = .aborted → s.validateCycle n = s.abortedSession n conn2) ∧
      ∀ hw, e = .good (some hw) → s.validateCycle n = s.recordComparison { n with conn := conn2 } hw := by
  unfold State.exchanged at stepped read
  rw [serial] at stepped
  refine ⟨?_, ?_, fun hw => ?_⟩ <;> rintro rfl <;> simp only [State.validateCycle, serial, stepped, read]

end

/-! ## The comparison of two snapshots (R548, R549) -/

theorem State.recordComparison_matched {n : Session} {hw : Snapshot} (same : compareSnapshots s.cfg.validator.ctrlSignals s.snapshot hw = []) :
    s.recordComparison n hw = { s with
      session := some { n with lastHw := some hw, seq := n.seq + 1 }, driver := { s.driver with validation := .matched } } := if_pos same

theorem State.recordComparison_diverged {n : Session} {hw : Snapshot} (differ : compareSnapshots s.cfg.validator.ctrlSignals s.snapshot hw ≠ []) :
    let r : DivergenceRecord := ⟨n.seq, s.snapshot, hw, compareSnapshots s.cfg.validator.ctrlSignals s.snapshot hw⟩
    s.recordComparison n hw = { s with
      session := some { n with lastHw := some hw, seq := n.seq + 1, log := n.log ++ [r], status := .degraded }
      driver := { s.driver with validation := .diverged r } } := if_neg differ

end

/-- A category is absent where what it compares is equal. -/
theorem category_absent_iff {equal : Prop} [Decidable equal] (c : Category) : (if equal then [] else [c]) = [] ↔ equal := by
  split <;> simpa

theorem compareSnapshots_eq_nil_iff (names : List String) (sw hw : Snapshot) : compareSnapshots names sw hw = [] ↔
    sw.addr = hw.addr ∧ sw.data = hw.data ∧ sw.ctrl.phase = hw.ctrl.phase ∧ sw.ctrl.dir = hw.ctrl.dir ∧ sw.ctrl.space = hw.ctrl.space ∧
      sw.ctrl.lock = hw.ctrl.lock ∧ ∀ x ∈ names, sw.ctrl.value x = hw.ctrl.value x := by
  simp only [compareSnapshots, List.append_eq_nil_iff, category_absent_iff, List.map_eq_nil_iff, List.filter_eq_nil_iff, bne_iff_ne, ne_eq, not_not,
    and_assoc]

/-- Settles O59: by whether there is a session to compare, by its transport, and by how its exchanges end. -/
theorem comparison : Obligations.Comparison := by
  unfold Obligations.Comparison
  intro s p
  refine ⟨SessionOnly.validate s, fun off => State.validate_off (State.comparing_none off), fun n enabled session status => ?compared, fun n hw => ?recorded,
    compareSnapshots_eq_nil_iff, fun n => ⟨rfl, rfl, rfl⟩, fun n t => ⟨rfl, rfl⟩⟩
  case compared =>
    rw [State.validate_comparing (State.comparing_some enabled session status)]
    refine ⟨fun null => ?_, fun l serial => ⟨fun t1 failed => ?_, fun t1 aborted => ?_, fun a t1 good => ⟨fun t2 failed => ?_, fun t2 aborted => ?_,
      fun hw t2 read => ?_⟩⟩⟩
    · rw [State.validateCycle_null null]
      exact ⟨rfl, rfl⟩
    · obtain ⟨fatal, -⟩ := State.validateCycle_step serial failed
      exact fatal rfl
    · obtain ⟨-, ended⟩ := State.validateCycle_step serial aborted
      exact ended rfl
    · obtain ⟨fatal, -, -⟩ := State.validateCycle_readBusState serial good failed
      exact fatal rfl
    · obtain ⟨-, ended, -⟩ := State.validateCycle_readBusState serial good aborted
      exact ended rfl
    · obtain ⟨-, -, compared⟩ := State.validateCycle_readBusState serial good read
      exact compared hw rfl
  case recorded =>
    intro d t
    refine ⟨fun same => ?_, fun differ => ?_⟩
    · have matched : t = _ := State.recordComparison_matched same
      rw [matched]
      exact ⟨rfl, rfl⟩
    · have diverged : t = _ := State.recordComparison_diverged differ
      rw [diverged]
      exact ⟨rfl, rfl⟩

end Sys2Proof.Machine

/-!
O60. Each attempt on a scripted link sends one frame and takes one reply (R551; log 27).
-/

namespace Sys2Proof.Machine

/-- A link on which every frame goes out and every reset is done, and only the replies and the resynchronisations are scripted (log 27). -/
def Link.scripted (replies : List Reply) (resyncs : List Bool) (sent : List (List Byte)) : Transport := .serial ⟨[], replies, [], resyncs, sent⟩

section
variable (p : ValidatorParams) (cmd : Cmd)

/-- The frame of each attempt. -/
def attemptFrame : List Byte := requestFrame p cmd (cmdPayload cmd)

variable {p cmd} {reply : Reply} {rest : List Reply} {resyncs : List Bool} {sent : List (List Byte)}

theorem exchange_scripted : exchange p cmd (cmdPayload cmd) (Link.scripted (reply :: rest) resyncs sent) =
    (judgeReply p cmd reply, Link.scripted rest resyncs (sent ++ [attemptFrame p cmd])) := rfl

theorem resync_scripted : resync (Link.scripted rest (true :: resyncs) sent) = (.ok, Link.scripted rest resyncs sent) := rfl

/-- A good response ends the attempts. -/
theorem exchangeRetry_good {snap : Option Snapshot} (good : judgeReply p cmd reply = .good snap) (n : Nat) :
    exchangeRetry p cmd (n + 1) (Link.scripted (reply :: rest) resyncs sent) =
      (.good snap, Link.scripted rest resyncs (sent ++ [attemptFrame p cmd])) := by
  cases n with
  | zero => rw [exchangeRetry, exchange_scripted, good]
  | succ n => simp only [exchangeRetry, exchange_scripted, good]

/-- A failed attempt that is not the last is followed by a resynchronisation and the next. -/
theorem exchangeRetry_again (failed : judgeReply p cmd reply = .failed) (n : Nat) :
    exchangeRetry p cmd (n + 2) (Link.scripted (reply :: rest) (true :: resyncs) sent) =
      exchangeRetry p cmd (n + 1) (Link.scripted rest resyncs (sent ++ [attemptFrame p cmd])) := by
  simp only [exchangeRetry, exchange_scripted, failed, resync_scripted]

/-- A failed last attempt is the fatal error. -/
theorem exchangeRetry_last (failed : judgeReply p cmd reply = .failed) :
    exchangeRetry p cmd 1 (Link.scripted (reply :: rest) resyncs sent) = (.failed, Link.scripted rest resyncs (sent ++ [attemptFrame p cmd])) := by
  rw [exchangeRetry, exchange_scripted, failed]

theorem sent_append_replicate (frame : List Byte) (k : Nat) : sent ++ [frame] ++ List.replicate k frame = sent ++ List.replicate (k + 1) frame := by
  rw [List.append_assoc, List.replicate_succ, List.singleton_append]

/-- The replies up to the first good one are taken, each by an attempt of its own. -/
theorem exchangeRetry_until_good {bad : List Reply} {snap : Option Snapshot} (fail : ∀ r ∈ bad, judgeReply p cmd r = .failed)
    (good : judgeReply p cmd reply = .good snap) {n : Nat} (enough : bad.length < n) :
    exchangeRetry p cmd n (Link.scripted (bad ++ reply :: rest) (List.replicate bad.length true) sent) =
      (.good snap, Link.scripted rest [] (sent ++ List.replicate (bad.length + 1) (attemptFrame p cmd))) := by
  induction bad generalizing n sent with
  | nil =>
    obtain ⟨n, rfl⟩ := Nat.exists_eq_add_of_lt enough
    exact (exchangeRetry_good good _).trans rfl
  | cons r bad ih =>
    obtain ⟨n, rfl⟩ : ∃ m, n = m + 2 := ⟨n - 2, by simp at enough; omega⟩
    obtain ⟨first, others⟩ := List.forall_mem_cons.mp fail
    rw [List.cons_append, List.length_cons, List.replicate_succ, exchangeRetry_again first, ih others (by simpa using enough), sent_append_replicate]

/-- Where every attempt fails, the last of them is the fatal error. -/
theorem exchangeRetry_exhausted {bad : List Reply} (fail : ∀ r ∈ bad, judgeReply p cmd r = .failed) (nonempty : 0 < bad.length) :
    exchangeRetry p cmd bad.length (Link.scripted (bad ++ rest) (List.replicate (bad.length - 1) true) sent) =
      (.failed, Link.scripted rest [] (sent ++ List.replicate bad.length (attemptFrame p cmd))) := by
  induction bad generalizing sent with
  | nil => contradiction
  | cons r bad ih =>
    obtain ⟨first, others⟩ := List.forall_mem_cons.mp fail
    cases bad with
    | nil => exact exchangeRetry_last first
    | cons r2 bad =>
      have next := ih (sent := sent ++ [attemptFrame p cmd]) others (by simp)
      rw [sent_append_replicate] at next
      exact (exchangeRetry_again first _).trans next

end

/-- Settles O60: by induction on the replies that fail. -/
theorem retryBound : Obligations.RetryBound := by
  unfold Obligations.RetryBound
  intro p cmd n bad good snap rest sent fail succeeds frame
  refine ⟨fun enough => exchangeRetry_until_good fail succeeds enough, fun all nonempty => ?_⟩
  subst all
  exact exchangeRetry_exhausted fail nonempty

end Sys2Proof.Machine
